-- ==== Sys2Proof/Word.lean ====
section
/-!
DEFINITION. The bit-vector widths of the controller (spec/00_scope.md R5, R7). Every value is an unsigned bit vector of a
stated width; bit 0 is the least significant bit.
-/
namespace Sys2Proof

/-- One byte: a line register, a port datum, a response word. -/
abbrev Byte := BitVec 8

/-- One command word (R60). -/
abbrev Command := BitVec 16

/-- A 32-bit physical address (R5 `PA_WIDTH`, R44). -/
abbrev Addr := BitVec 32

/-- A legacy I/O port address (R6 `PORT_AW`: 16 bits). PRESUMED, log entry 9. -/
abbrev PortAddr := BitVec 16

end Sys2Proof
end

