-- ==== Sys2Proof/Syntax.lean ====
section
/-!
DEFINITION. The six commands of the controller (spec/30_encoding.md R63), one constructor for each row of
spec/opcode_table.json. A line is named by its bank number and its local index within the bank (R60, R62); both are plain
numbers here, and `Instr.wellFormed` (WellFormed.lean) says which of them a command word can carry.
-/
namespace Sys2Proof

/-- A command, with the operands its word carries (R60, R63). -/
inductive Instr where
  /-- `GET b, i`: read level (R114). -/
  | get (bank idx : Nat)
  /-- `SET b, i, v`: write level (R120). -/
  | set (bank idx : Nat) (level : Bool)
  /-- `DIR_OUT b, i`: set direction = output (R119). -/
  | dirOut (bank idx : Nat)
  /-- `DIR_IN b, i`: set direction = input (R118). -/
  | dirIn (bank idx : Nat)
  /-- `ATTACH` (R141). -/
  | attach
  /-- `DETACH` (R151). -/
  | detach
deriving DecidableEq, Repr

/-- The two classes of command port (R65). -/
inductive PortClass where
  | requester
  | lifecycle
deriving DecidableEq, Repr

/-- The class of port that accepts a command (R63, R65). -/
def Instr.portClass : Instr → PortClass
  | .get _ _ => .requester
  | .set _ _ _ => .requester
  | .dirOut _ _ => .requester
  | .dirIn _ _ => .requester
  | .attach => .lifecycle
  | .detach => .lifecycle

end Sys2Proof
end

