-- ==== Sys2Proof/WellFormed.lean ====
section
/-!
DEFINITION. Which terms of `Instr` a command word can carry: the bank number is two bits and the local index eight
(spec/30_encoding.md R60, R72: `b` a bank number 0 to 3, `i` a local index 0 to 255). Bank 3 and an index past the bank's
last line are well formed: they decode, and the command then answers `InvalidLineIndex` (R62, R69, R111).
-/
namespace Sys2Proof

/-- The operands fit the fields `BANK` (2 bits) and `IDX` (8 bits) of R60. -/
def lineOperandsFit (bank idx : Nat) : Bool := decide (bank < 4) && decide (idx < 256)

/-- The operands of a command fit the fields of its word (R60). -/
def Instr.wellFormed : Instr → Bool
  | .get b i => lineOperandsFit b i
  | .set b i _ => lineOperandsFit b i
  | .dirOut b i => lineOperandsFit b i
  | .dirIn b i => lineOperandsFit b i
  | .attach => true
  | .detach => true

end Sys2Proof
end

