-- ==== Sys2Proof/Decode.lean ====
section
/-!
DEFINITION. The command word (spec/30_encoding.md R60 to R63, R69, R72, R73): decoding, total and rejecting by name, and the
encoder. A command is one 16-bit word presented whole on a port, so no byte order enters (R49, R60, R71).
-/
namespace Sys2Proof

/-- Why a word is reserved (R69). Raised by `decode`; the port answers `InvalidCommand` (R166). Safe: the spec fixes the answer. -/
inductive Reserved where
  /-- `OP` is none of 1, 2, 3, 8, 9. -/
  | opcode
  /-- `OP` is 1, 2 or 3 and the reserved bit `Z` is 1. -/
  | zBit
  /-- a `GET` word with `V = 1`. -/
  | vBit
  /-- `OP` is 8 or 9 and some lower bit is 1. -/
  | lifecycleOperand
deriving DecidableEq, Repr

/-- `OP = CMD[15:12]` (R61). -/
def opField (w : Command) : BitVec 4 := w.extractLsb' 12 4

/-- `BANK = CMD[11:10]` (R61). -/
def bankField (w : Command) : Nat := (w.extractLsb' 10 2).toNat

/-- `Z = CMD[9]` (R61). -/
def zField (w : Command) : Bool := w.getLsbD 9

/-- `V = CMD[8]` (R61). -/
def vField (w : Command) : Bool := w.getLsbD 8

/-- `IDX = CMD[7:0]` (R61). -/
def idxField (w : Command) : Nat := (w.extractLsb' 0 8).toNat

/-- A word matches a row of the opcode map when `(word & mask) = match` (R63). -/
def matchesRow (mask pattern w : Command) : Bool := w &&& mask == pattern

/-- Why a word that matches no row is reserved (R69). -/
def reservedReason (w : Command) : Reserved :=
  if opField w = 8#4 ∨ opField w = 9#4 then .lifecycleOperand
  else if opField w = 1#4 ∨ opField w = 2#4 ∨ opField w = 3#4 then
    if zField w then .zBit else .vBit
  else .opcode

/-- The opcode map of R63, row by row; no word matches two rows, so their order does not matter. A word that matches none is
reserved (R69). -/
def decode (w : Command) : Except Reserved Instr :=
  if matchesRow 0xF300#16 0x1000#16 w then .ok (.get (bankField w) (idxField w))
  else if matchesRow 0xF200#16 0x2000#16 w then .ok (.set (bankField w) (idxField w) (vField w))
  else if matchesRow 0xF300#16 0x3000#16 w then .ok (.dirOut (bankField w) (idxField w))
  else if matchesRow 0xF300#16 0x3100#16 w then .ok (.dirIn (bankField w) (idxField w))
  else if matchesRow 0xFFFF#16 0x8000#16 w then .ok .attach
  else if matchesRow 0xFFFF#16 0x9000#16 w then .ok .detach
  else .error (reservedReason w)

/-- The decoder on an opcode-table row: `w` is the word, `nbits` its width in the table (16 for every row, R71). -/
def decodeTableWord (nbits w : Nat) : Option Instr :=
  if nbits = 16 ∧ w < 65536 then
    match decode (BitVec.ofNat 16 w) with
    | .ok i => some i
    | .error _ => none
  else none

/-- `(b << 10) | i`, the operand part of a line command's word (R72). -/
def lineOperands (bank idx : Nat) : Command := (BitVec.ofNat 16 bank <<< 10) ||| BitVec.ofNat 16 idx

/-- The word of a command (R72). -/
def encode : Instr → Command
  | .get b i => 0x1000#16 ||| lineOperands b i
  | .set b i v => 0x2000#16 ||| ((BitVec.ofBool v).zeroExtend 16 <<< 8) ||| lineOperands b i
  | .dirOut b i => 0x3000#16 ||| lineOperands b i
  | .dirIn b i => 0x3100#16 ||| lineOperands b i
  | .attach => 0x8000#16
  | .detach => 0x9000#16

/-- The pseudo-instruction `SETDIR b, i, in` (R73): the source's `set_direction(line, input)`. -/
def setDir (bank idx : Nat) (input : Bool) : Instr :=
  if input then .dirIn bank idx else .dirOut bank idx

/-- The text of a command in the syntax of R72. -/
def assemblyText : Instr → String
  | .get b i => "GET " ++ toString b ++ ", " ++ toString i
  | .set b i v => "SET " ++ toString b ++ ", " ++ toString i ++ ", " ++ (if v then "1" else "0")
  | .dirOut b i => "DIR_OUT " ++ toString b ++ ", " ++ toString i
  | .dirIn b i => "DIR_IN " ++ toString b ++ ", " ++ toString i
  | .attach => "ATTACH"
  | .detach => "DETACH"

end Sys2Proof
end

