-- ==== Sys2Proof/Config.lean ====
section
/-!
DEFINITION. The parameters the spec leaves open (spec/00_scope.md R6; spec/92_eei_decisions.md, "Open parameters in one
place") and the free inputs of a step (spec/10_state.md R31). A constant with no body can be any value: nothing in Lean can
evaluate it.
-/
namespace Sys2Proof

/-! ## What the outside chooses at one step -/

/-- The kind a failed bank registration carries (spec/44_lifecycle.md R148). -/
inductive FailKind where
  | resourceConflict
  | mappingFailure
  | registrationFailure
deriving DecidableEq, Repr, Inhabited

/-- The environment's answer to a handshake (R148). The kind matters to `Env.Register` alone; the other requests' `fail`
carries none, and a kind given there is not read. -/
inductive Answer where
  | ok
  | fail (kind : FailKind)
deriving DecidableEq, Repr, Inhabited

/-- Who takes the next step (R7 to R9 "Step"; spec/92_eei_decisions.md D1): the sequencer of requester port `r`, the lifecycle
sequencer, or another user of the index/data port pair (R24, R199). -/
inductive Turn where
  | requester (r : Nat)
  | lifecycle
  | other
deriving DecidableEq, Repr, Inhabited

/-- The free inputs of one step (R31, R148, R181). A step reads only those its own rule names. -/
structure Inputs where
  /-- the word the outside presents on the port, if it presents one (R112, R140) -/
  word : Option Command
  /-- the outside takes the response presented on the port (R125, R158) -/
  taken : Bool
  /-- `PAD_IN` of the line read, at the moment of the read (R26): used when the line is an input -/
  padIn : Bool
  /-- bit 7 of the line read when the line is an output: any value, fresh at every read (R26, D12) -/
  outputBit7 : Bool
  /-- the environment's answer to the handshake of this step (R148) -/
  answer : Answer
  /-- the index another user of the port pair writes (R24, R199) -/
  index : Byte
deriving DecidableEq, Repr, Inhabited

/-- The outside's choice for one step: who moves, and the free inputs of the move. -/
structure Move where
  turn : Turn
  inputs : Inputs
deriving DecidableEq, Repr, Inhabited

/-! ## The configuration record -/

/-- `LANE_ORDER` (R81, D9). -/
inductive LaneOrder where
  | ascending
  | descending
deriving DecidableEq, Repr, Inhabited

/-- `baseOf` (R90, D10): the default mask form, the shift form of G4, or any other function whose result has its low eight
bits zero and depends on `V` alone. -/
inductive BaseForm where
  | mask
  | shift
  | other
deriving DecidableEq, Repr, Inhabited

/-- The configuration record of R6 that a launch fixes. No step changes it. -/
structure Params where
  /-- `INDEX_PORT` (R41, D8) -/
  indexPort : PortAddr
  /-- `LANE_ORDER` (R81, D9) -/
  laneOrder : LaneOrder
  /-- `baseOf` (R90, D10) -/
  baseForm : BaseForm
deriving DecidableEq, Repr, Inhabited

namespace Config

/-- `NREQ` is this plus one: `NREQ` is open, at least 1 (R6, R19, D1). Log entry 1. -/
opaque extraRequesters : Nat

/-- `NREQ`, the number of requester ports (R6, D1). -/
def nreq : Nat := extraRequesters + 1

/-- Any 16-bit value: the seed of `INDEX_PORT` (R41, D8). Log entry 2. -/
opaque indexPortSeed : PortAddr

/-- `INDEX_PORT`: any port address whose successor does not wrap (D8). -/
def indexPort : PortAddr := if indexPortSeed = 0xFFFF#16 then 0xFFFE#16 else indexPortSeed

/-- The upper 24 bits of a `baseOf` of the form `other` (R90, D10). Log entry 4. -/
opaque baseUpper : BitVec 24 → BitVec 24

/-- `CFG`: the content of the chipset configuration space at launch (R24, D18). Log entry 5. -/
opaque cfgByte : Nat → Byte

/-- `LR_RESET`: the content of every line register at reset, any value (R6, R186, D17). Log entry 6. -/
opaque lrReset : Nat → Byte

/-- `IDXREG` at reset: any value (R186). Log entry 7. -/
opaque idxReset : Byte

/-- The outside's choices, step by step, as far as no script fixes them (R31, R52, R148, R181). Log entry 8. -/
opaque move : Nat → Move

/-- The configuration record of a launch: `INDEX_PORT` open, `LANE_ORDER` and `baseOf` at the defaults of R6. -/
def params : Params := { indexPort := indexPort, laneOrder := .ascending, baseForm := .mask }

end Config

end Sys2Proof
end

