-- ==== Sys2Proof/Machine/State.lean ====
section
/-!
DEFINITION. The state of the controller, of its ports and of the environment it reads and writes (spec/10_state.md R10 to
R28), as plain data, and the state after reset (spec/70_reset_and_hazards.md R185, R186).
-/
namespace Sys2Proof.Machine

/-- `LC`, the lifecycle state (R12). -/
inductive LcState where
  | unattached
  | discovering
  | windowAcquired
  | banksRegistering
  | attached
  | detaching
deriving DecidableEq, Repr

/-- `LSTEP`, the phase of the lifecycle sequencer (R23); the names are the spec's without their `L_`. -/
inductive LStep where
  | idle | dec
  | pres | idx1 | dat1 | idx2 | dat2 | idx3 | dat3 | prel
  | rres | map | mfrel
  | reg0 | reg1 | reg2
  | rbu1 | rbu0 | rbunmap | rbrrel
  | dwait | unreg2 | unreg1 | unreg0 | unmap | rrel
  | resp
deriving DecidableEq, Repr

/-- `PHASE[r]`, the phase of a requester's sequencer (R20). -/
inductive Phase where
  | idle | dec | rdu | acq | rdl | w1 | w2 | rel | resp
deriving DecidableEq, Repr

/-- The state of one requester port (R19). -/
structure Requester where
  /-- `PHASE[r]` -/
  phase : Phase
  /-- `CMD[r]`, the command word latched at issue -/
  cmd : Command
  /-- `REG[r]`, the private copy of one line register (R21) -/
  reg : Byte
  /-- `RSP[r]`, the response word -/
  rsp : Byte
deriving DecidableEq, Repr

/-- `BANK_EN[0..2]` (R17). -/
structure BankFlags where
  b0 : Bool
  b1 : Bool
  b2 : Bool
deriving DecidableEq, Repr

/-- The status of a response (R161). -/
inductive Status where
  | ok
  | resourceConflict
  | mappingFailure
  | registrationFailure
  | invalidLineIndex
  | wrongState
  | invalidCommand
deriving DecidableEq, Repr

/-- The requests the controller makes of its environment (R74, R148). -/
inductive EnvRequest where
  | reservePorts
  | releasePorts
  | reserveRegion (base : Addr) (size : Nat)
  | map (base : Addr) (size : Nat)
  | unmap
  | releaseRegion
  | register (bank base count : Nat)
  | unregister (bank : Nat)
deriving DecidableEq, Repr

/-- What the event history records (R59). Port accesses and handshakes are the lifecycle sequencer's, window accesses and lock
events a requester's. -/
inductive Event where
  | issue (port : Turn) (word : Command)
  | response (port : Turn) (word : Byte)
  | ioWrite (port : PortAddr) (value : Byte)
  | ioRead (port : PortAddr) (value : Byte)
  | memRead (r : Nat) (addr : Addr) (value : Byte)
  | memWrite (r : Nat) (addr : Addr) (value : Byte)
  | lockAcquire (r : Nat)
  | lockRelease (r : Nat)
  /-- a handshake with its answer; `none` where the request has no answer (R148) -/
  | env (request : EnvRequest) (answer : Option Answer)
deriving DecidableEq, Repr

/-- A byte space held as (address, byte) pairs with rising addresses; `Memory.wf` (Machine/Memory.lean) is its one form. -/
abbrev Memory := List Host.Cell

/-- Why a step stops. The spec has no step that does any of these (R48, R182 (c), (e)); log entry 10. -/
inductive Fault where
  /-- Raised by `MemRead` and `MemWrite` at an address outside the mapped window's line registers: "any access outside that
  window is undefined and must not be permitted by the design" (R44, R48). Safe: no state that meets the invariant raises it. -/
  | windowAccess (addr : Addr)
  /-- Raised by `IoRead8` and `IoWrite8` while the ports are not reserved (R16, R48, R80). Safe: as above. -/
  | portAccess
  /-- Raised by a meaning called for a port that is in no phase of the command (R20, R23, R182 (c)). Safe: as above. -/
  | noSuchStep
deriving DecidableEq, Repr

/-- Why an instruction is refused. -/
inductive Refusal where
  /-- An instruction without a meaning in this model; no arm answers it. Safe: nothing follows from a refusal. -/
  | notModelled (mnemonic : String)
deriving DecidableEq, Repr

structure State where
  /-- `LC` (R12) -/
  lc : LcState
  /-- `LSTEP` (R23) -/
  lstep : LStep
  /-- `LCMD` (R11) -/
  lcmd : Command
  /-- `LRSP` (R11) -/
  lrsp : Byte
  /-- `ERRK` (R11) -/
  errk : BitVec 4
  /-- `ACC` (R15) -/
  acc : BitVec 24
  /-- `DBA` (R13) -/
  dba : Addr
  /-- `PORTS_RSVD` (R16) -/
  portsRsvd : Bool
  /-- `REGION_RSVD` (R16) -/
  regionRsvd : Bool
  /-- `MAPPED` (R16) -/
  mapped : Bool
  /-- `BANK_EN` (R17) -/
  bankEn : BankFlags
  /-- `LOCK_HELD` (R18) -/
  lockHeld : Bool
  /-- `LOCK_OWNER` (R18), meaningful only when `lockHeld` -/
  lockOwner : Nat
  /-- the requester ports, port `r` at position `r`; their number is `NREQ` (R19) -/
  reqs : List Requester
  /-- `IDXREG`, the chipset's index register (R24) -/
  idxReg : Byte
  /-- `CFG`, the chipset configuration space (R24), by index -/
  configSpace : Memory
  /-- the stored bits of the line registers (R25), by window offset; bit 7 of every byte is 0, since `IN` is not stored -/
  window : Memory
  /-- the configuration record (R6) -/
  params : Params
  /-- the event history, latest event first (R59) -/
  history : List Event
  /-- MODEL: who takes the next step (R52, R178: any schedule) -/
  turn : Turn
  /-- MODEL: the free inputs of the next step (R31) -/
  inputs : Inputs
  /-- MODEL: the outside's choices for the steps after the next, as far as they are fixed -/
  script : List Move
  /-- MODEL: how many choices have been drawn from `Config.move` -/
  drawn : Nat
deriving DecidableEq, Repr

/-- A requester port after reset (R185): idle, its latches without a value (held as 0: DESIGN CHOICE, log entry 11). -/
def Requester.reset : Requester := { phase := .idle, cmd := 0, reg := 0, rsp := 0 }

/-- The state after reset (R185, R186). The latches to which R185 gives no value hold 0 (DESIGN CHOICE, log entry 11); the
environment's part is `Config`'s open values, and the first step is the outside's choice number 0. -/
def State.reset : State where
  lc := .unattached
  lstep := .idle
  lcmd := 0
  lrsp := 0
  errk := 0
  acc := 0
  dba := 0
  portsRsvd := false
  regionRsvd := false
  mapped := false
  bankEn := { b0 := false, b1 := false, b2 := false }
  lockHeld := false
  lockOwner := 0
  reqs := List.replicate Config.nreq Requester.reset
  idxReg := Config.idxReset
  configSpace := []
  window := []
  params := Config.params
  history := []
  turn := (Config.move 0).turn
  inputs := (Config.move 0).inputs
  script := []
  drawn := 1

end Sys2Proof.Machine
end

