-- ==== Sys2Proof/Machine/Flags.lean ====
section
/-!
DEFINITION. Status codes and response words (spec/60_exceptions.md R161; spec/30_encoding.md R64). The controller has no flag
register (spec/10_state.md R29): a command's status and, for `GET`, its level stand in its response word alone.
-/
namespace Sys2Proof.Machine

/-- `code(E)` (R161). -/
def Status.code : Status → BitVec 4
  | .ok => 0#4
  | .resourceConflict => 1#4
  | .mappingFailure => 2#4
  | .registrationFailure => 3#4
  | .invalidLineIndex => 4#4
  | .wrongState => 5#4
  | .invalidCommand => 6#4

/-- The status a failed registration is reported with (R147, R148). -/
def failStatus : FailKind → Status
  | .resourceConflict => .resourceConflict
  | .mappingFailure => .mappingFailure
  | .registrationFailure => .registrationFailure

/-- `{LEVEL, 000, STATUS}` (R64). -/
def responseWord (level : Bool) (code : BitVec 4) : Byte := BitVec.ofBool level ++ 0#3 ++ code

/-- `STATUS`, bits 3:0 of a response word (R64). -/
def responseStatus (w : Byte) : BitVec 4 := w.extractLsb' 0 4

/-- `LEVEL`, bit 7 of a response word (R64). -/
def responseLevel (w : Byte) : Bool := w.getLsbD 7

/-- A word a port can present: bits 6:4 are 0, the status is one of R161's seven codes, and `LEVEL` is 0 unless the status is
`OK` (R64, R161). -/
def legalResponse (w : Byte) : Bool :=
  decide (w.extractLsb' 4 3 = 0#3) && decide ((responseStatus w).toNat ≤ 6) &&
    (!responseLevel w || decide (responseStatus w = 0#4))

end Sys2Proof.Machine
end

