-- ==== Sys2Proof/Machine/Memory.lean ====
section
/-!
DEFINITION. Byte spaces as canonical lists: the window of line registers (spec/10_state.md R25) by offset from `WBASE`, and
the chipset configuration space (R24) by index. An address that is not listed reads as the space's open parameter
(`LR_RESET`, `CFG`: R6, R24, R186).
-/
namespace Sys2Proof.Machine

/-- The two byte spaces the model holds (R40). -/
inductive Space where
  /-- the line registers, by window offset (R25, R45) -/
  | window
  /-- the chipset configuration space, by index (R24, R43) -/
  | config
deriving DecidableEq, Repr

/-- The offsets that hold a line register: 0 to 67, 128 to 150, 160 to 228 (R25, R45). -/
def hasLine (o : Nat) : Bool :=
  decide (o < 68) || (decide (128 ≤ o) && decide (o < 151)) || (decide (160 ≤ o) && decide (o < 229))

/-- The addresses that exist in a space (R24, R25). -/
def Space.exists : Space → Nat → Bool
  | .window, o => hasLine o
  | .config, a => decide (a < 256)

/-- The bits of a byte that a space stores: `IN`, bit 7 of a line register, is not stored (R25, R27). -/
def Space.stored : Space → Byte → Byte
  | .window, v => v &&& 0x7F#8
  | .config, v => v

/-- What an address that is not listed reads as: `LR_RESET` (R186) or `CFG` (R24), both open. -/
def Space.unlisted : Space → Nat → Byte
  | .window, o => Space.stored .window (Config.lrReset o)
  | .config, a => Config.cfgByte a

/-- The byte listed at an address, if one is. -/
def Memory.find (m : Memory) (a : Nat) : Option Byte :=
  match m with
  | [] => none
  | (b, v) :: rest => if b = a then some v else Memory.find rest a

/-- The byte at an address. -/
def Memory.read (sp : Space) (m : Memory) (a : Nat) : Byte := (m.find a).getD (sp.unlisted a)

/-- The list without entries at an address. -/
def Memory.erase (m : Memory) (a : Nat) : Memory :=
  match m with
  | [] => []
  | (b, v) :: rest => if b = a then Memory.erase rest a else (b, v) :: Memory.erase rest a

/-- The list with the entry at an address set, in rising order. -/
def Memory.insert (m : Memory) (a : Nat) (v : Byte) : Memory :=
  match m with
  | [] => [(a, v)]
  | (b, w) :: rest =>
    if a < b then (a, v) :: (b, w) :: rest
    else if b = a then (a, v) :: rest
    else (b, w) :: Memory.insert rest a v

/-- The list after a write of a byte's stored bits: writing what an unlisted address reads as removes the entry. -/
def Memory.write (sp : Space) (m : Memory) (a : Nat) (v : Byte) : Memory :=
  if sp.stored v = sp.unlisted a then m.erase a else m.insert a (sp.stored v)

/-- An address lies above a bound, if there is one. -/
def Memory.above (bound : Option Nat) (a : Nat) : Bool :=
  match bound with
  | none => true
  | some b => decide (b < a)

/-- Every address of the list is above a bound and they rise strictly. -/
def Memory.rising (bound : Option Nat) (m : Memory) : Bool :=
  match m with
  | [] => true
  | (a, _) :: rest => Memory.above bound a && Memory.rising (some a) rest

/-- The canonical form: addresses rise strictly, exist in the space, hold stored bits only, and no entry equals what an
unlisted address reads as. -/
def Memory.wf (sp : Space) (m : Memory) : Bool :=
  m.rising none && m.all fun c => sp.exists c.1 && decide (sp.stored c.2 = c.2) && !decide (c.2 = sp.unlisted c.1)

end Sys2Proof.Machine
end

