-- ==== Sys2Proof/Machine/Operands.lean ====
section
/-!
DEFINITION. The constants the source fixes (spec/00_scope.md R5), the bank table and a line command's operands
(spec/30_encoding.md R62, R66, R73; spec/43_line_ops.md R110, R111), and the discovery arithmetic
(spec/40_port_reader.md R81, R84, R87; spec/41_window.md R90, R91).
-/
namespace Sys2Proof.Machine

/-! ## Bank table -/

/-- `BANK_BASE` (R5, R66); bank 3, the empty bank, has no base that is used (R62). -/
def bankBase : Nat → Nat
  | 0 => 0
  | 1 => 128
  | 2 => 160
  | _ => 0

/-- `BANK_COUNT` (R5, R66, R111): 0 for the empty bank. -/
def bankCount : Nat → Nat
  | 0 => 68
  | 1 => 23
  | 2 => 69
  | _ => 0

/-- The range check of a line command (R111). -/
def inRange (bank idx : Nat) : Bool := decide (idx < bankCount bank)

/-- `OFF`, the absolute offset of a line in the window (R62, R110). -/
def lineOffset (bank idx : Nat) : Nat := bankBase bank + idx

/-- The line `(b, i)` a line command names (R62). -/
def lineOf : Instr → Option (Nat × Nat)
  | .get b i => some (b, i)
  | .set b i _ => some (b, i)
  | .dirOut b i => some (b, i)
  | .dirIn b i => some (b, i)
  | .attach => none
  | .detach => none

/-- The commands that share the read-modify-write frame, under the lock (R115). -/
def takesLock : Instr → Bool
  | .get _ _ => false
  | .set _ _ _ => true
  | .dirOut _ _ => true
  | .dirIn _ _ => true
  | .attach => false
  | .detach => false

/-- The line `(b, i)` of a global line number, an absolute window offset (R73). -/
def globalLine (g : Nat) : Option (Nat × Nat) :=
  if g < 68 then some (0, g)
  else if 128 ≤ g ∧ g < 151 then some (1, g - 128)
  else if 160 ≤ g ∧ g < 229 then some (2, g - 160)
  else none

/-! ## Discovery -/

/-- `REG_OFFSET` (R5, R43). -/
def regOffset : Byte := 0x24#8

/-- `WINDOW_OFFSET` (R5). -/
def windowOffset : Addr := 0x100#32

/-- `WINDOW_SIZE` (R5). -/
def windowSize : Nat := 0x100

/-- `lane(k)` for `k` = 1, 2, 3 (R81). -/
def lane (order : LaneOrder) (k : Nat) : Byte :=
  match order with
  | .ascending => BitVec.ofNat 8 k
  | .descending => BitVec.ofNat 8 (4 - k)

/-- The address byte of lane `k` of a configuration register, at 8 bits (R80, R87). -/
def laneAddress (order : LaneOrder) (register : Byte) (k : Nat) : Byte := register + lane order k

/-- `ACC <- (ACC << 8) + zext_24(d)` (R84). -/
def accumulate (acc : BitVec 24) (d : Byte) : BitVec 24 := (acc <<< 8) + d.zeroExtend 24

/-- `baseOf(V)` (R90): its low eight bits are zero in every form. -/
def baseOf (form : BaseForm) (v : BitVec 24) : Addr :=
  match form with
  | .mask => v.zeroExtend 32 &&& 0xFFFFFF00#32
  | .shift => v.zeroExtend 32 <<< 8
  | .other => Config.baseUpper v ++ 0#8

/-- `WBASE`, the window's physical base (R14, R91). -/
def windowBase (dba : Addr) : Addr := dba + windowOffset

/-- `DATA_PORT` (R41). -/
def dataPort (p : Params) : PortAddr := p.indexPort + 1

end Sys2Proof.Machine
end

