-- ==== Sys2Proof/Machine/RegisterEncoding.lean ====
section
/-!
DEFINITION. The pure functions over one line register byte (spec/42_register_encoding.md R100 to R104; the byte's format is
spec/30_encoding.md R67): bit 5 the direction (1 = input), bit 6 the output level, bit 7 the input level.
-/
namespace Sys2Proof.Machine

/-- `is_input(b)`: bit 5 (R100). -/
def isInput (b : Byte) : Bool := b.getLsbD 5

/-- `with_direction(b, input)`: sets or clears bit 5 (R101). -/
def withDirection (b : Byte) (input : Bool) : Byte := if input then b ||| 0x20#8 else b &&& 0xDF#8

/-- `read_level(b)`: bit 7 of an input byte, bit 6 of an output byte (R102). -/
def readLevel (b : Byte) : Bool := if isInput b then b.getLsbD 7 else b.getLsbD 6

/-- `with_output_level(b, level)`: sets or clears bit 6, total on all bytes (R103, D25). -/
def withOutputLevel (b : Byte) (level : Bool) : Byte := if level then b ||| 0x40#8 else b &&& 0xBF#8

/-- The byte with bit 7 put in: what a read of a line register answers (R26). -/
def withInputBit (b : Byte) (bit : Bool) : Byte := if bit then b ||| 0x80#8 else b &&& 0x7F#8

/-- `OUTL` of a stored byte: bit 6 (R25). -/
def outputLevel (b : Byte) : Bool := b.getLsbD 6

/-- `LOW` of a stored byte: bits 4:0 (R25). -/
def lowBits (b : Byte) : BitVec 5 := b.extractLsb' 0 5

end Sys2Proof.Machine
end

