-- ==== Sys2Proof/Machine/Ops.lean ====
section
/-!
DEFINITION. The shared operations: events, requester ports, bus primitives (spec/20_memory.md R42, R46, R47), ending a command
(spec/60_exceptions.md R160) and taking its response (R173), handshakes (spec/44_lifecycle.md R148), and the outside's choice
of the next step.
-/
namespace Sys2Proof.Machine

/-- The outcome of one step of this machine. -/
abbrev Result := Host.Outcome State Fault Refusal

/-! ## Events and requester ports -/

/-- Record an event (R59). -/
def State.record (s : State) (e : Event) : State := { s with history := e :: s.history }

/-- Change the state of requester port `r` (R19). -/
def State.modReq (s : State) (r : Nat) (f : Requester → Requester) : State := { s with reqs := s.reqs.modify r f }

/-- `PHASE[r] <- p` (R8). -/
def State.setPhase (s : State) (r : Nat) (p : Phase) : State := s.modReq r fun q => { q with phase := p }

/-- `Busy(r)`: past the gate and not yet answered (R20). -/
def Phase.busy : Phase → Bool
  | .idle | .dec | .resp => false
  | .rdu | .acq | .rdl | .w1 | .w2 | .rel => true

/-- The phases in which a requester holds the lock (R30 (f)). -/
def Phase.holdsLock : Phase → Bool
  | .rdl | .w1 | .w2 | .rel => true
  | .idle | .dec | .rdu | .acq | .resp => false

/-! ## Ending a command and taking its response -/

/-- Present a response word on a port (R64, R160): the port goes to its response phase. -/
def respond (port : Turn) (w : Byte) (s : State) : State :=
  match port with
  | .requester r => (s.modReq r fun q => { q with rsp := w, phase := .resp }).record (.response port w)
  | .lifecycle => { s with lrsp := w, lstep := .resp }.record (.response port w)
  | .other => s

/-- `raise E` (R160): end the port's command with the status code of `E`. -/
def raise (port : Turn) (e : Status) (s : State) : State := respond port (responseWord false e.code) s

/-- The outside takes the response and the port goes back to idle (R125, R158, R173). -/
def takeResponse (port : Turn) (s : State) : State :=
  match port with
  | .requester r => s.setPhase r .idle
  | .lifecycle => { s with lstep := .idle }
  | .other => s

/-- The outside presents a word on an idle port, which latches it (R112, R140). -/
def issue (port : Turn) (w : Command) (s : State) : State :=
  match port with
  | .requester r => (s.modReq r fun q => { q with cmd := w, phase := .dec }).record (.issue port w)
  | .lifecycle => { s with lcmd := w, lstep := .dec }.record (.issue port w)
  | .other => s

/-! ## The window -/

/-- `ADDR`, the physical address of a line's register (R62, R110). -/
def lineAddr (s : State) (bank idx : Nat) : Addr := windowBase s.dba + BitVec.ofNat 32 (lineOffset bank idx)

/-- The stored bits of the line register at a window offset; bit 7 is 0 (R25). -/
def State.line (s : State) (o : Nat) : Byte := s.window.read .window o

/-- The byte a read of the line register at a window offset answers (R26): the stored bits, and in bit 7 the pad of an input
line, any value on an output line. -/
def State.readLine (s : State) (o : Nat) : Byte :=
  withInputBit (s.line o) (if isInput (s.line o) then s.inputs.padIn else s.inputs.outputBit7)

/-- What the controller side drives onto a line's pad: `OUTL` on an output line, nothing on an input line (R28). -/
def State.drives (s : State) (o : Nat) : Option Bool :=
  if isInput (s.line o) then none else some (outputLevel (s.line o))

/-- The window offset of the line register at a physical address, while the window is mapped (R44, R46, R47). -/
def lineAt (s : State) (addr : Addr) : Option Nat :=
  let o := (addr - windowBase s.dba).toNat
  if s.mapped && hasLine o then some o else none

/-- `MemRead(addr, 1)` by requester `r`, and what is done with the byte (R46). -/
def memRead (r : Nat) (addr : Addr) (s : State) (k : Byte → State → Result) : Result :=
  match lineAt s addr with
  | none => .fault (.windowAccess addr)
  | some o => k (s.readLine o) (s.record (.memRead r addr (s.readLine o)))

/-- `MemWrite(addr, 1, v)` by requester `r` (R27, R47): bit 7 is ignored. -/
def memWrite (r : Nat) (addr : Addr) (v : Byte) (s : State) : Result :=
  match lineAt s addr with
  | none => .fault (.windowAccess addr)
  | some o => .next ({ s with window := s.window.write .window o v }.record (.memWrite r addr v))

/-! ## The index/data port pair -/

/-- `IoWrite8(INDEX_PORT, v)` (R24, R42), in a step that then goes to `go`. -/
def writeIndex (v : Byte) (go : LStep) (s : State) : Result :=
  if s.portsRsvd then .next ({ s with idxReg := v, lstep := go }.record (.ioWrite s.params.indexPort v))
  else .fault .portAccess

/-- `d <- IoRead8(DATA_PORT)` (R24, R42) and the accumulation of `d` (R84), in a step that then goes to `go`. -/
def readData (go : LStep) (s : State) : Result :=
  let d := s.configSpace.read .config s.idxReg.toNat
  if s.portsRsvd then .next ({ s with acc := accumulate s.acc d, lstep := go }.record (.ioRead (dataPort s.params) d))
  else .fault .portAccess

/-! ## Handshakes -/

/-- Record a handshake that has an answer, with the answer this step was given (R59, R148). -/
def asked (q : EnvRequest) (s : State) : State := s.record (.env q (some s.inputs.answer))

/-- Record a handshake that has no answer (R59, R148). -/
def told (q : EnvRequest) (s : State) : State := s.record (.env q none)

/-- `BANK_EN[b] <- v` (R17). -/
def BankFlags.put (f : BankFlags) (b : Nat) (v : Bool) : BankFlags :=
  match b with
  | 0 => { f with b0 := v }
  | 1 => { f with b1 := v }
  | 2 => { f with b2 := v }
  | _ => f

/-! ## Whose step it is -/

/-- The meaning of a line command at the port whose turn it is. On a requester port `k` runs the sequencer; a line command's
word on the lifecycle port is treated as a reserved word there (R65, R69). -/
def onRequester (s : State) (k : Nat → Requester → Result) : Result :=
  match s.turn with
  | .requester r =>
    match s.reqs[r]? with
    | some q => k r q
    | none => .fault .noSuchStep
  | .lifecycle => if s.lstep = .dec then .next (raise .lifecycle .invalidCommand s) else .fault .noSuchStep
  | .other => .fault .noSuchStep

/-- The meaning of a lifecycle command at the port whose turn it is. On the lifecycle port `k` is the sequencer's step; its
word on a requester port is treated as a reserved word there (R65, R69). -/
def onLifecycle (s : State) (k : Result) : Result :=
  match s.turn with
  | .requester r =>
    match s.reqs[r]? with
    | some q => if q.phase = .dec then .next (raise (.requester r) .invalidCommand s) else .fault .noSuchStep
    | none => .fault .noSuchStep
  | .lifecycle => k
  | .other => .fault .noSuchStep

/-- The step on a latched word that is no command of any port (R69, R166). -/
def answerReserved (s : State) : Result :=
  match s.turn with
  | .requester r =>
    match s.reqs[r]? with
    | some q => if q.phase = .dec then .next (raise (.requester r) .invalidCommand s) else .fault .noSuchStep
    | none => .fault .noSuchStep
  | .lifecycle => if s.lstep = .dec then .next (raise .lifecycle .invalidCommand s) else .fault .noSuchStep
  | .other => .fault .noSuchStep

/-! ## Fetch, and the steps that run no command -/

/-- The latched command word whose next step the port whose turn it is takes; none while the port is idle or waits for its
response to be taken, and none for another user of the port pair (R20, R23, R112, R125). -/
def fetch (s : State) : Option Command :=
  match s.turn with
  | .requester r =>
    match s.reqs[r]? with
    | some q => if q.phase = .idle ∨ q.phase = .resp then none else some q.cmd
    | none => none
  | .lifecycle => if s.lstep = .idle ∨ s.lstep = .resp then none else some s.lcmd
  | .other => none

/-- An idle port latches the word the outside presents, if it presents one (R112, R140). -/
def issueIfPresented (port : Turn) (s : State) : State :=
  match s.inputs.word with
  | some w => issue port w s
  | none => s

/-- A port in its response phase goes idle if the outside takes the response (R125, R158). -/
def takeIfTaken (port : Turn) (s : State) : State := if s.inputs.taken then takeResponse port s else s

/-- Another user of the index/data pair writes the index port; never while the ports are reserved (R24, R89, R181, R199). -/
def otherUser (s : State) : State := if s.portsRsvd then s else { s with idxReg := s.inputs.index }

/-- The steps that run no command: a port that is idle or waits to be answered, and another user of the port pair. A turn of a
port that does not exist changes nothing. -/
def outsideStep (s : State) : State :=
  match s.turn with
  | .requester r =>
    match s.reqs[r]? with
    | some q =>
      match q.phase with
      | .idle => issueIfPresented (.requester r) s
      | .resp => takeIfTaken (.requester r) s
      | .dec | .rdu | .acq | .rdl | .w1 | .w2 | .rel => s
    | none => s
  | .lifecycle =>
    if s.lstep = .idle then issueIfPresented .lifecycle s
    else if s.lstep = .resp then takeIfTaken .lifecycle s
    else s
  | .other => otherUser s

/-- The outside's next choice: the script's, and past its end any (R31, R52, R148). Log entry 8. -/
def State.draw (s : State) : State :=
  match s.script with
  | m :: rest => { s with turn := m.turn, inputs := m.inputs, script := rest }
  | [] => { s with turn := (Config.move s.drawn).turn, inputs := (Config.move s.drawn).inputs, drawn := s.drawn + 1 }

/-- Draw the outside's next choice after a step that answers a next state. -/
def thenDraw : Result → Result
  | .next s => .next s.draw
  | .fault f => .fault f
  | .refused r => .refused r

/-! ## Placing a command -/

/-- The requester ports with a command latched and waiting for decode in port 0 (R112, R131). -/
def latchFirst (w : Command) : List Requester → List Requester
  | [] => [{ Requester.reset with phase := .dec, cmd := w }]
  | q :: rest => { q with phase := .dec, cmd := w } :: rest

/-- The state with a command word latched on its own class of port (R65, R72: requester 0 is meant where no port is named) and
the next step given to that port. Log entry 12. -/
def placeCommand (w : Command) (s : State) : State :=
  if w = 0x8000#16 ∨ w = 0x9000#16 then { s with turn := .lifecycle, lcmd := w, lstep := .dec }
  else { s with turn := .requester 0, reqs := latchFirst w s.reqs }

end Sys2Proof.Machine
end

