-- ==== Sys2Proof/Machine/Lifecycle.lean ====
section
/-!
DEFINITION. The lifecycle manager (spec/44_lifecycle.md): `ATTACH` R141 and `DETACH` R151. A meaning is one step of the
lifecycle sequencer, in the phase it is in (spec/10_state.md R23): one port event or one handshake a step.
-/
namespace Sys2Proof.Machine

/-! ## Discovery -/

/-- The port reservation step (R92, R142). -/
def reservePorts (s : State) : State :=
  match s.inputs.answer with
  | .ok => { asked .reservePorts s with portsRsvd := true, acc := 0, lstep := .idx1 }
  | .fail _ => raise .lifecycle .resourceConflict { asked .reservePorts s with lc := .unattached }

/-- The index write of lane `k` (R83, R143). -/
def writeLaneIndex (k : Nat) (go : LStep) (s : State) : Result :=
  writeIndex (laneAddress s.params.laneOrder regOffset k) go s

/-- The port release step (R93, R144): the only write of `DBA`. -/
def releasePorts (s : State) : State :=
  { told .releasePorts s with
    portsRsvd := false, dba := baseOf s.params.baseForm s.acc, lc := .windowAcquired, lstep := .rres }

/-! ## The window -/

/-- The region reservation step (R94, R145). -/
def reserveRegion (s : State) : State :=
  let t := asked (.reserveRegion (windowBase s.dba) windowSize) s
  match s.inputs.answer with
  | .ok => { t with regionRsvd := true, lstep := .map }
  | .fail _ => raise .lifecycle .resourceConflict { t with lc := .unattached }

/-- The mapping step (R95, R146). -/
def mapWindow (s : State) : State :=
  let t := asked (.map (windowBase s.dba) windowSize) s
  match s.inputs.answer with
  | .ok => { t with mapped := true, lc := .banksRegistering, lstep := .reg0 }
  | .fail _ => { t with errk := Status.mappingFailure.code, lstep := .mfrel }

/-- `Env.Unmap()` (R96), in a step that then goes to `go`. -/
def unmapWindow (go : LStep) (s : State) : State := { told .unmap s with mapped := false, lstep := go }

/-- `Env.ReleaseRegion()` (R97) and the end of the command with a status code: the controller is back in `Unattached`. -/
def releaseRegion (code : BitVec 4) (s : State) : State :=
  respond .lifecycle (responseWord false code) { told .releaseRegion s with regionRsvd := false, lc := .unattached }

/-! ## The banks -/

/-- The registration step of bank `b` (R147): on success `next` is done, on failure the rollback starts at `back`. -/
def registerBank (b : Nat) (next : State → State) (back : LStep) (s : State) : State :=
  let t := asked (.register b (bankBase b) (bankCount b)) s
  match s.inputs.answer with
  | .ok => next { t with bankEn := t.bankEn.put b true }
  | .fail k => { t with errk := (failStatus k).code, lstep := back }

/-- The end of a successful `ATTACH` (R147). -/
def attachDone (s : State) : State := respond .lifecycle (responseWord false Status.ok.code) { s with lc := .attached }

/-- `Env.Unregister(b)`, its answer ignored (R149, R154), in a step that then goes to `go`. -/
def unregisterBank (b : Nat) (go : LStep) (s : State) : State :=
  { asked (.unregister b) s with bankEn := s.bankEn.put b false, lstep := go }

/-- The drain step of `DETACH` (R152): it holds while a requester is busy. -/
def drain (s : State) : State :=
  if s.reqs.any fun q => q.phase.busy then s else { s with lstep := .unreg2 }

/-! ## The two commands -/

/-- `ATTACH` (R141 to R150). -/
def execAttach (s : State) : Result :=
  onLifecycle s <|
    match s.lstep with
    | .dec =>
      .next (if s.lc = .unattached then { s with lc := .discovering, lstep := .pres } else raise .lifecycle .wrongState s)
    | .pres => .next (reservePorts s)
    | .idx1 => writeLaneIndex 1 .dat1 s
    | .dat1 => readData .idx2 s
    | .idx2 => writeLaneIndex 2 .dat2 s
    | .dat2 => readData .idx3 s
    | .idx3 => writeLaneIndex 3 .dat3 s
    | .dat3 => readData .prel s
    | .prel => .next (releasePorts s)
    | .rres => .next (reserveRegion s)
    | .map => .next (mapWindow s)
    | .mfrel => .next (releaseRegion s.errk s)
    | .reg0 => .next (registerBank 0 (fun t => { t with lstep := .reg1 }) .rbunmap s)
    | .reg1 => .next (registerBank 1 (fun t => { t with lstep := .reg2 }) .rbu0 s)
    | .reg2 => .next (registerBank 2 attachDone .rbu1 s)
    | .rbu1 => .next (unregisterBank 1 .rbu0 s)
    | .rbu0 => .next (unregisterBank 0 .rbunmap s)
    | .rbunmap => .next (unmapWindow .rbrrel s)
    | .rbrrel => .next (releaseRegion s.errk s)
    | .idle | .dwait | .unreg2 | .unreg1 | .unreg0 | .unmap | .rrel | .resp => .fault .noSuchStep

/-- `DETACH` (R151 to R156). -/
def execDetach (s : State) : Result :=
  onLifecycle s <|
    match s.lstep with
    | .dec =>
      .next (if s.lc = .attached then { s with lc := .detaching, lstep := .dwait } else raise .lifecycle .wrongState s)
    | .dwait => .next (drain s)
    | .unreg2 => .next (unregisterBank 2 .unreg1 s)
    | .unreg1 => .next (unregisterBank 1 .unreg0 s)
    | .unreg0 => .next (unregisterBank 0 .unmap s)
    | .unmap => .next (unmapWindow .rrel s)
    | .rrel => .next (releaseRegion Status.ok.code s)
    | .idle | .pres | .idx1 | .dat1 | .idx2 | .dat2 | .idx3 | .dat3 | .prel | .rres | .map | .mfrel
    | .reg0 | .reg1 | .reg2 | .rbu1 | .rbu0 | .rbunmap | .rbrrel | .resp => .fault .noSuchStep

end Sys2Proof.Machine
end

