-- ==== Sys2Proof/Machine/Line.lean ====
section
/-!
DEFINITION. The GPIO line controller (spec/43_line_ops.md): `GET` R114, `DIR_IN` R118, `DIR_OUT` R119, `SET` R120. A meaning is
one step of the sequencer of the requester whose turn it is, in the phase that sequencer is in (spec/10_state.md R20): the
steps of one command are not fused, since other agents' steps fall between them (R131).
-/
namespace Sys2Proof.Machine

/-- The decode step of a line command (R113): the lifecycle gate, then the range check, then `go`. -/
def lineGate (r bank idx : Nat) (go : Phase) (s : State) : State :=
  if s.lc ≠ .attached then raise (.requester r) .wrongState s
  else if !inRange bank idx then raise (.requester r) .invalidLineIndex s
  else s.setPhase r go

/-- The unlocked read step of `GET` (R114). -/
def readUnlocked (r bank idx : Nat) (s : State) : Result :=
  memRead r (lineAddr s bank idx) s fun b t =>
    .next (respond (.requester r) (responseWord (readLevel b) Status.ok.code) (t.modReq r fun q => { q with reg := b }))

/-- The acquire step (R116): while the lock is held the requester holds in `ACQ` and nothing changes. -/
def acquireLock (r : Nat) (s : State) : State :=
  if s.lockHeld then s
  else ({ s with lockHeld := true, lockOwner := r }.setPhase r .rdl).record (.lockAcquire r)

/-- The locked read step (R117): the byte read decides the next phase. -/
def readLocked (r bank idx : Nat) (go : Byte → Phase) (s : State) : Result :=
  memRead r (lineAddr s bank idx) s fun b t => .next (t.modReq r fun q => { q with reg := b, phase := go b })

/-- A write step (R121 to R123): the latched byte becomes `v`, which is written to the line register. -/
def writeBack (r bank idx : Nat) (v : Byte) (go : Phase) (s : State) : Result :=
  memWrite r (lineAddr s bank idx) v (s.modReq r fun q => { q with reg := v, phase := go })

/-- The release step (R124). -/
def releaseLock (r : Nat) (s : State) : State :=
  respond (.requester r) (responseWord false Status.ok.code) ({ s with lockHeld := false }.record (.lockRelease r))

/-- A step of `DIR_IN` (`input` true) or `DIR_OUT` (`input` false) (R115 to R119, R121, R124). -/
def directionStep (input : Bool) (bank idx : Nat) (s : State) : Result :=
  onRequester s fun r q =>
    match q.phase with
    | .dec => .next (lineGate r bank idx .acq s)
    | .acq => .next (acquireLock r s)
    | .rdl => readLocked r bank idx (fun b => if isInput b = input then .rel else .w1) s
    | .w1 => writeBack r bank idx (withDirection q.reg input) .rel s
    | .rel => .next (releaseLock r s)
    | .idle | .rdu | .w2 | .resp => .fault .noSuchStep

/-- `GET b, i` (R113, R114). It takes no lock and writes nothing. -/
def execGet (bank idx : Nat) (s : State) : Result :=
  onRequester s fun r q =>
    match q.phase with
    | .dec => .next (lineGate r bank idx .rdu s)
    | .rdu => readUnlocked r bank idx s
    | .idle | .acq | .rdl | .w1 | .w2 | .rel | .resp => .fault .noSuchStep

/-- `SET b, i, v` (R113, R115 to R117, R120, R122 to R124): an input line is first switched to output, by a write of its own. -/
def execSet (bank idx : Nat) (level : Bool) (s : State) : Result :=
  onRequester s fun r q =>
    match q.phase with
    | .dec => .next (lineGate r bank idx .acq s)
    | .acq => .next (acquireLock r s)
    | .rdl => readLocked r bank idx (fun b => if isInput b then .w1 else .w2) s
    | .w1 => writeBack r bank idx (withDirection q.reg false) .w2 s
    | .w2 => writeBack r bank idx (withOutputLevel q.reg level) .rel s
    | .rel => .next (releaseLock r s)
    | .idle | .rdu | .resp => .fault .noSuchStep

/-- `DIR_OUT b, i` (R119). -/
def execDirOut (bank idx : Nat) (s : State) : Result := directionStep false bank idx s

/-- `DIR_IN b, i` (R118). -/
def execDirIn (bank idx : Nat) (s : State) : Result := directionStep true bank idx s

end Sys2Proof.Machine
end

