-- ==== Sys2Proof/Machine/Dispatch.lean ====
section
/-!
DEFINITION. One arm for each command: the step its sequencer takes in the phase it is in (spec/30_encoding.md R63).
-/
namespace Sys2Proof.Machine

def exec (i : Instr) (s : State) : Host.Outcome State Fault Refusal :=
  match i with
  | .get b n => Sys2Proof.Machine.execGet b n s
  | .set b n v => Sys2Proof.Machine.execSet b n v s
  | .dirOut b n => Sys2Proof.Machine.execDirOut b n s
  | .dirIn b n => Sys2Proof.Machine.execDirIn b n s
  | .attach => Sys2Proof.Machine.execAttach s
  | .detach => Sys2Proof.Machine.execDetach s

end Sys2Proof.Machine
end

