-- ==== Sys2Proof/Machine/Step.lean ====
section
/-!
DEFINITION. One step of the machine: the agent whose turn it is takes one step, and the outside then chooses the next
(spec/00_scope.md R9 "Step"; spec/20_memory.md R52).
-/
namespace Sys2Proof.Machine

/-- One step. Where the port whose turn it is has a command in flight, the step is that command's meaning, by the word latched
on the port; a latched word that decodes to nothing is answered as reserved (R69). Any other turn runs no command. -/
def step (s : State) : Host.Outcome State Fault Refusal :=
  match fetch s with
  | some w =>
    match decode w with
    | .ok i => thenDraw (exec i s)
    | .error _ => thenDraw (answerReserved s)
  | none => .next (outsideStep s).draw

/-- The state whose very next step runs the command with these bits: the word is latched on its port, which waits for decode
and has the turn (R112, R131, R140). The bits above the table's `nbits` are 0. -/
def State.withFetchWord (s : State) (nbits w : Nat) : State := placeCommand (BitVec.ofNat 16 (w % 2 ^ nbits)) s

end Sys2Proof.Machine
end

