-- ==== Sys2Proof/Machine/Runs.lean ====
section
/-!
DEFINITION. Endless runs and their fairness (spec/70_reset_and_hazards.md R204; spec/43_line_ops.md R116). The machine itself
takes any schedule (spec/60_exceptions.md R178); a claim that something happens at last takes `FairRun` as a hypothesis.
-/
namespace Sys2Proof.Machine

/-- An agent has an enabled step (R8, R182 (b), (c)): its sequencer is in a phase with a step, and is not in one of the two
holds. A port that is idle or in its response phase waits for the outside, which is free to let it wait (R112, R125, R181), and
so is another user of the port pair. -/
def State.enabled (s : State) (agent : Turn) : Bool :=
  match agent with
  | .requester r =>
    match s.reqs[r]? with
    | some q =>
      match q.phase with
      | .idle | .resp => false
      | .acq => !s.lockHeld
      | .dec | .rdu | .rdl | .w1 | .w2 | .rel => true
    | none => false
  | .lifecycle =>
    match s.lstep with
    | .idle | .resp => false
    | .dwait => !s.reqs.any fun q => q.phase.busy
    | .dec | .pres | .idx1 | .dat1 | .idx2 | .dat2 | .idx3 | .dat3 | .prel | .rres | .map | .mfrel | .reg0 | .reg1 | .reg2
    | .rbu1 | .rbu0 | .rbunmap | .rbrrel | .unreg2 | .unreg1 | .unreg0 | .unmap | .rrel => true
  | .other => false

/-- An endless run: every state is the one that the step before it gave, with any choice of the outside for the step that
follows (R52, R178, R181). Log entry 17. -/
def IsRun (run : Nat → State) : Prop :=
  ∀ k, ∃ t, step (run k) = .next t ∧
    run (k + 1) = { t with turn := (run (k + 1)).turn, inputs := (run (k + 1)).inputs, script := (run (k + 1)).script,
                           drawn := (run (k + 1)).drawn }

/-- The agent takes an enabled step at this point of a run. -/
def TakesStep (run : Nat → State) (k : Nat) (agent : Turn) : Prop :=
  (run k).turn = agent ∧ (run k).enabled agent = true

/-- A fair run (R204): every enabled step of every agent is eventually taken, and the lock arbiter passes no waiter over for
ever (R116). The third part of R204, that the environment answers every request, holds of every run: an answer is an input of
the step that asks (R148). -/
def FairRun (run : Nat → State) : Prop :=
  (∀ k agent, (run k).enabled agent = true → ∃ j, k ≤ j ∧ TakesStep run j agent) ∧
  (∀ (k r : Nat) (q : Requester), (run k).reqs[r]? = some q → q.phase = .acq →
    ∃ j, k ≤ j ∧ TakesStep run j (.requester r))

end Sys2Proof.Machine
end

