-- ==== Sys2Proof/Safety.lean ====
section
/-!
DEFINITION. What counts as a safe state of the controller (spec/10_state.md R20, R23, R30; spec/60_exceptions.md R182), which
moves of the lifecycle state are legal (R12), what the event history may hold (spec/40_port_reader.md R85), and how one
command is run to its end by its own steps.
-/
namespace Sys2Proof.Machine

/-! ## The lifecycle sequencer -/

/-- The lifecycle states a phase of the lifecycle sequencer stands in (R23). -/
def LStep.allows : LStep → LcState → Bool
  | .idle, lc | .dec, lc | .resp, lc => lc == .unattached || lc == .attached
  | .pres, lc | .idx1, lc | .dat1, lc | .idx2, lc | .dat2, lc | .idx3, lc | .dat3, lc | .prel, lc => lc == .discovering
  | .rres, lc | .map, lc | .mfrel, lc => lc == .windowAcquired
  | .reg0, lc | .reg1, lc | .reg2, lc => lc == .banksRegistering
  | .rbu1, lc | .rbu0, lc | .rbunmap, lc | .rbrrel, lc => lc == .banksRegistering
  | .dwait, lc | .unreg2, lc | .unreg1, lc | .unreg0, lc | .unmap, lc | .rrel, lc => lc == .detaching

/-- What the controller holds of its environment (R16, R17). -/
structure Holdings where
  ports : Bool
  region : Bool
  mapped : Bool
  banks : BankFlags
deriving DecidableEq, Repr

/-- What a state holds. -/
def State.holdings (s : State) : Holdings :=
  { ports := s.portsRsvd, region := s.regionRsvd, mapped := s.mapped, banks := s.bankEn }

/-- Holdings with the window and these banks; the ports are not held. -/
def Holdings.window (b0 b1 b2 : Bool) : Holdings :=
  { ports := false, region := true, mapped := true, banks := { b0 := b0, b1 := b1, b2 := b2 } }

/-- Holdings with no bank and no mapping. -/
def Holdings.plain (ports region : Bool) : Holdings :=
  { ports := ports, region := region, mapped := false, banks := { b0 := false, b1 := false, b2 := false } }

/-- What the controller holds in each phase of the lifecycle sequencer (R141 to R156; R30 (a) and (b) where it is idle). -/
def LStep.holds : LStep → LcState → Holdings
  | .idle, lc | .dec, lc | .resp, lc =>
    if lc = .attached then Holdings.window true true true else Holdings.plain false false
  | .pres, _ => Holdings.plain false false
  | .idx1, _ | .dat1, _ | .idx2, _ | .dat2, _ | .idx3, _ | .dat3, _ | .prel, _ => Holdings.plain true false
  | .rres, _ => Holdings.plain false false
  | .map, _ | .mfrel, _ => Holdings.plain false true
  | .reg0, _ => Holdings.window false false false
  | .reg1, _ => Holdings.window true false false
  | .reg2, _ => Holdings.window true true false
  | .rbu1, _ => Holdings.window true true false
  | .rbu0, _ => Holdings.window true false false
  | .rbunmap, _ => Holdings.window false false false
  | .rbrrel, _ => Holdings.plain false true
  | .dwait, _ | .unreg2, _ => Holdings.window true true true
  | .unreg1, _ => Holdings.window true true false
  | .unreg0, _ => Holdings.window true false false
  | .unmap, _ => Holdings.window false false false
  | .rrel, _ => Holdings.plain false true

/-- The command word that is latched in a phase past decode (R141, R151). -/
def LStep.command : LStep → Option Command
  | .idle | .dec | .resp => none
  | .pres | .idx1 | .dat1 | .idx2 | .dat2 | .idx3 | .dat3 | .prel | .rres | .map | .mfrel
  | .reg0 | .reg1 | .reg2 | .rbu1 | .rbu0 | .rbunmap | .rbrrel => some 0x8000#16
  | .dwait | .unreg2 | .unreg1 | .unreg0 | .unmap | .rrel => some 0x9000#16

/-- The phases in which `ERRK` holds the code of a failed `ATTACH` (R146, R147, R168). -/
def LStep.failing : LStep → Bool
  | .mfrel | .rbu1 | .rbu0 | .rbunmap | .rbrrel => true
  | .idle | .dec | .pres | .idx1 | .dat1 | .idx2 | .dat2 | .idx3 | .dat3 | .prel | .rres | .map | .reg0 | .reg1 | .reg2
  | .dwait | .unreg2 | .unreg1 | .unreg0 | .unmap | .rrel | .resp => false

/-- The lane that the data step of a phase reads (R143). -/
def LStep.dataLane : LStep → Option Nat
  | .dat1 => some 1
  | .dat2 => some 2
  | .dat3 => some 3
  | .idle | .dec | .pres | .idx1 | .idx2 | .idx3 | .prel | .rres | .map | .mfrel | .reg0 | .reg1 | .reg2
  | .rbu1 | .rbu0 | .rbunmap | .rbrrel | .dwait | .unreg2 | .unreg1 | .unreg0 | .unmap | .rrel | .resp => none

/-- How many lanes have been read, in the phases from the port reservation's end to the port release (R82, R84, R143). -/
def LStep.lanesDone : LStep → Option Nat
  | .idx1 | .dat1 => some 0
  | .idx2 | .dat2 => some 1
  | .idx3 | .dat3 => some 2
  | .prel => some 3
  | .idle | .dec | .pres | .rres | .map | .mfrel | .reg0 | .reg1 | .reg2
  | .rbu1 | .rbu0 | .rbunmap | .rbrrel | .dwait | .unreg2 | .unreg1 | .unreg0 | .unmap | .rrel | .resp => none

/-- The byte a configuration space holds for lane `k` of a register (R80, R81). -/
def laneByte (order : LaneOrder) (space : Memory) (register : Byte) (k : Nat) : Byte :=
  space.read .config (laneAddress order register k).toNat

/-- The value `READ_BASE(register)` leaves in `ACC` (R80): three bytes of a configuration space, the first the most
significant. -/
def readBase (order : LaneOrder) (space : Memory) (register : Byte) : BitVec 24 :=
  laneByte order space register 1 ++ laneByte order space register 2 ++ laneByte order space register 3

/-- `ACC` when the first `n` lanes have been read: 0, `d1`, `{d1, d2}`, `{d1, d2, d3}` (R82, R84). -/
def readLanes (order : LaneOrder) (space : Memory) (register : Byte) : Nat → BitVec 24
  | 0 => 0#24
  | 1 => 0#16 ++ laneByte order space register 1
  | 2 => 0#8 ++ laneByte order space register 1 ++ laneByte order space register 2
  | _ => readBase order space register

/-! ## A requester's sequencer -/

/-- A command with a line in range, of the kind a phase past the gate runs (R20, R113). -/
def lineReady (lock : Bool) (i : Instr) : Bool :=
  takesLock i == lock &&
    match lineOf i with
    | some (b, n) => inRange b n
    | none => false

/-- The direction a direction write finds: `SET` and `DIR_OUT` write an input line, `DIR_IN` an output line (R117, R121,
R122). -/
def writesFrom : Instr → Bool
  | .dirIn _ _ => false
  | .get _ _ | .set _ _ _ | .dirOut _ _ | .attach | .detach => true

/-- The command is a `SET` (R20: phase `W2` is `SET`'s alone). -/
def isSet : Instr → Bool
  | .set _ _ _ => true
  | .get _ _ | .dirOut _ _ | .dirIn _ _ | .attach | .detach => false

/-- The command of a requester past its gate fits its phase (R20, R113, R117, R121 to R123): a `GET` reads, the three others
take the lock, the line is in range, a direction write changes the direction, and a level write finds an output byte. -/
def fitsPhase (p : Phase) (i : Instr) (reg : Byte) : Bool :=
  match p with
  | .idle | .dec | .resp => true
  | .rdu => lineReady false i
  | .acq | .rdl | .rel => lineReady true i
  | .w1 => lineReady true i && isInput reg == writesFrom i
  | .w2 => lineReady true i && isSet i && !isInput reg

/-- A requester's latches fit its phase: past the gate its word decodes to a command of the phase, and in its response phase
it presents a response word (R64). -/
def Requester.fits (q : Requester) : Prop :=
  (q.phase.busy = true → ∃ i, decode q.cmd = .ok i ∧ fitsPhase q.phase i q.reg = true) ∧
    (q.phase = .resp → legalResponse q.rsp = true)

/-- The phases in which the latched byte is the line register's (R21): it has been read, under the lock, or just written. -/
def Phase.holdsByte : Phase → Bool
  | .w1 | .w2 | .rel => true
  | .idle | .dec | .rdu | .acq | .rdl | .resp => false

/-- The most steps of its own that a lock holder takes before its release step (R116). -/
def Phase.stepsToRelease : Phase → Nat
  | .rdl => 3
  | .w1 => 2
  | .w2 => 1
  | .idle | .dec | .rdu | .acq | .rel | .resp => 0

/-! ## The invariant -/

/-- The invariant of the controller: R30, what R20 and R23 say of each phase, and what R82 to R84 leave after each lane. -/
structure Inv (s : State) : Prop where
  /-- the lifecycle state is that of the phase (R23) -/
  lifecycle : s.lstep.allows s.lc = true
  /-- the resource and bank flags are those of the phase (R30 (a) to (e)) -/
  holds : s.holdings = s.lstep.holds s.lc
  /-- a lifecycle command past decode is the one that is latched -/
  latched : ∀ w, s.lstep.command = some w → s.lcmd = w
  /-- the base is aligned from the step that writes it to the end of the mapping (R30 (h)) -/
  aligned : s.lstep = .rres ∨ s.regionRsvd = true → s.dba.extractLsb' 0 8 = 0#8
  /-- a failing `ATTACH` carries the code of one of the source's three kinds (R161) -/
  failing : s.lstep.failing = true → 1 ≤ s.errk.toNat ∧ s.errk.toNat ≤ 3
  /-- the word presented on the lifecycle port is a response word (R64) -/
  answered : s.lstep = .resp → legalResponse s.lrsp = true
  /-- at a data step the index register is the address of the step's own lane, whatever others did before (R82, R83, R89) -/
  indexed : ∀ k, s.lstep.dataLane = some k → s.idxReg = laneAddress s.params.laneOrder regOffset k
  /-- the accumulator holds the bytes of the lanes read so far (R82, R84) -/
  accumulated : ∀ n, s.lstep.lanesDone = some n → s.acc = readLanes s.params.laneOrder s.configSpace regOffset n
  /-- every requester's command fits its phase -/
  fits : ∀ (r : Nat) (q : Requester), s.reqs[r]? = some q → q.fits
  /-- a requester is busy only while attached or while a detach waits for it (R30 (g), R152) -/
  gated : ∀ (r : Nat) (q : Requester), s.reqs[r]? = some q → q.phase.busy = true → s.lc = .attached ∨ s.lstep = .dwait
  /-- a requester between acquire and release owns the lock (R30 (f)) -/
  owned : ∀ (r : Nat) (q : Requester), s.reqs[r]? = some q → q.phase.holdsLock = true → s.lockHeld = true ∧ s.lockOwner = r
  /-- a lock that is held is held by a requester between acquire and release (R30 (f)) -/
  holder : s.lockHeld = true → ∃ q : Requester, s.reqs[s.lockOwner]? = some q ∧ q.phase.holdsLock = true
  /-- under the lock the latched byte is not stale: its stored bits are the line register's (R21) -/
  fresh : ∀ (r : Nat) (q : Requester) (i : Instr) (b n : Nat), s.reqs[r]? = some q → q.phase.holdsByte = true →
    decode q.cmd = .ok i → lineOf i = some (b, n) → Space.stored .window q.reg = s.line (lineOffset b n)
  /-- the line registers are in their one form -/
  windowForm : Memory.wf .window s.window = true
  /-- the configuration space is in its one form -/
  configForm : Memory.wf .config s.configSpace = true

/-! ## Legal moves, history, quiescence -/

/-- The moves of the lifecycle state: the chain of R12, and the return to `Unattached` of a failed `ATTACH`. -/
def LcState.mayBecome : LcState → LcState → Bool
  | .unattached, t => t == .unattached || t == .discovering
  | .discovering, t => t == .discovering || t == .windowAcquired || t == .unattached
  | .windowAcquired, t => t == .windowAcquired || t == .banksRegistering || t == .unattached
  | .banksRegistering, t => t == .banksRegistering || t == .attached || t == .unattached
  | .attached, t => t == .attached || t == .detaching
  | .detaching, t => t == .detaching || t == .unattached

/-- What an event of the controller may be: an index write names one of the lanes 1 to 3, so lane 0 is never read (R68, R85). -/
def Event.keepsLaneRule : Event → Bool
  | .ioWrite _ v => v == 0x25#8 || v == 0x26#8 || v == 0x27#8
  | .issue _ _ | .response _ _ | .ioRead _ _ | .memRead _ _ _ | .memWrite _ _ _ | .lockAcquire _ | .lockRelease _ | .env _ _ => true

/-- The controller is quiescent: every port is idle (R191). -/
def State.quiescent (s : State) : Prop := s.lstep = .idle ∧ ∀ (r : Nat) (q : Requester), s.reqs[r]? = some q → q.phase = .idle

/-! ## The invariants of the spec, in its own words -/

/-- The invariants (a) to (h) of R30. -/
structure SpecInvariants (s : State) : Prop where
  a : s.lc = .unattached → s.portsRsvd = false ∧ s.regionRsvd = false ∧ s.mapped = false ∧
    s.bankEn = { b0 := false, b1 := false, b2 := false } ∧ s.lockHeld = false ∧
    ∀ (r : Nat) (q : Requester), s.reqs[r]? = some q → q.phase.busy = false
  b : s.lc = .attached → s.portsRsvd = false ∧ s.regionRsvd = true ∧ s.mapped = true ∧
    s.bankEn = { b0 := true, b1 := true, b2 := true }
  c : s.portsRsvd = true → s.lc = .discovering
  d : s.mapped = true → s.regionRsvd = true
  e : s.bankEn.b0 = true ∨ s.bankEn.b1 = true ∨ s.bankEn.b2 = true → s.mapped = true
  f : (s.lockHeld = true ↔ ∃! r : Nat, ∃ q : Requester, s.reqs[r]? = some q ∧ q.phase.holdsLock = true) ∧
    ∀ (r : Nat) (q : Requester), s.reqs[r]? = some q → q.phase.holdsLock = true → s.lockOwner = r
  g : ∀ (r : Nat) (q : Requester), s.reqs[r]? = some q → q.phase.busy = true →
    (s.lc = .attached ∨ s.lc = .detaching) ∧ s.mapped = true
  h : s.mapped = true → s.dba.extractLsb' 0 8 = 0#8

/-- A state that some schedule and some behaviour of the outside bring the machine to from reset: `first` and `script` are the
outside's choices, step by step (R52, R181). -/
def Reachable (s : State) : Prop :=
  ∃ (k : Nat) (first : Move) (script : List Move),
    Host.Core.run Sys2Proof.core k
      { State.reset with turn := first.turn, inputs := first.inputs, script := script } = .next s

/-! ## Where a command stands -/

/-- It is the turn of requester port `r`, which is in this phase. -/
def RequesterAt (s : State) (r : Nat) (q : Requester) (p : Phase) : Prop :=
  s.turn = .requester r ∧ s.reqs[r]? = some q ∧ q.phase = p

/-- It is the turn of the lifecycle port, which is in this phase. -/
def LifecycleAt (s : State) (l : LStep) : Prop := s.turn = .lifecycle ∧ s.lstep = l

/-- The window is mapped and the line is one of the bank's (R46, R111). -/
def LineUsable (s : State) (bank idx : Nat) : Prop := s.mapped = true ∧ inRange bank idx = true

/-! ## One command run by its own steps -/

/-- The steps of one command taken one after the other, with the free inputs of each; the turn stays with the command's port.
It stops where a step stops. -/
def execWith (i : Instr) : List Inputs → State → Result
  | [], s => .next s
  | x :: xs, s =>
    match exec i { s with inputs := x } with
    | .next t => execWith i xs t
    | .fault f => .fault f
    | .refused e => .refused e

end Sys2Proof.Machine
end

