-- ==== Sys2Proof/Certificates/Slice0/Obligations.lean ====
section
/-!
DEFINITION. The statements for the provers. Each says what a rule of spec/ says of the machine; its docstring names the rule.
A next state is written as the state before with every field that changes, so that what is not named is unchanged. The event
history is part of the model (spec/20_memory.md R59) and its growth is stated with the rest. Where a statement names the model's
own choices: that a response is recorded in the step that presents it is log entry 14 (DEDUCED); that the outside's next choice
is drawn after a step (`draw`, `thenDraw`) is log entry 8 (DESIGN CHOICE); `withFetchWord` is log entry 12 (DESIGN CHOICE);
that a meaning is one step of a command's sequencer is log entry 13 (DEDUCED).
-/

open Sys2Proof Sys2Proof.Machine

/-! ## The line register byte -/

/-- R105: writing an output level and reading it back yields it, from any byte and from any input byte. -/
def Obligations.LevelReadsBackThroughEncoding : Prop :=
  ∀ (b : Byte) (l : Bool),
    readLevel (withOutputLevel (withDirection b false) l) = l ∧
    readLevel (withOutputLevel (withDirection (withDirection b true) false) l) = l ∧
    isInput (withOutputLevel (withDirection (withDirection b true) false) l) = false

/-- R101, R103, R104: `with_direction` changes bit 5 alone, to the direction asked; `with_output_level` changes bit 6 alone, to
the level asked. -/
def Obligations.EncodingChangesOneBit : Prop :=
  ∀ (b : Byte) (x : Bool) (k : Nat), k < 8 →
    (withDirection b x).getLsbD k = (if k = 5 then x else b.getLsbD k) ∧
    (withOutputLevel b x).getLsbD k = (if k = 6 then x else b.getLsbD k)

/-- R26: a read of a line register answers `DIR`, `OUTL` and `LOW` as stored and in bit 7 the pad of an input line, any value
on an output line; it changes nothing (the event history records it). -/
def Obligations.LineReadAnswersStoredBitsAndPad : Prop :=
  ∀ (s : State) (r b n : Nat) (k : Byte → State → Result), LineUsable s b n →
    ∃ v : Byte, memRead r (lineAddr s b n) s k = k v { s with history := .memRead r (lineAddr s b n) v :: s.history } ∧
      isInput v = isInput (s.line (lineOffset b n)) ∧
      outputLevel v = outputLevel (s.line (lineOffset b n)) ∧
      lowBits v = lowBits (s.line (lineOffset b n)) ∧
      v.getLsbD 7 = (if isInput (s.line (lineOffset b n)) then s.inputs.padIn else s.inputs.outputBit7)

/-- R27: a write of a line register stores `DIR`, `OUTL` and `LOW`, ignores bit 7, and changes nothing else (the event history
records it). -/
def Obligations.LineWriteStoresAllButBitSeven : Prop :=
  ∀ (s : State) (r b n : Nat) (v : Byte), LineUsable s b n →
    ∃ t : State, memWrite r (lineAddr s b n) v s = .next t ∧
      isInput (t.line (lineOffset b n)) = v.getLsbD 5 ∧
      outputLevel (t.line (lineOffset b n)) = v.getLsbD 6 ∧
      lowBits (t.line (lineOffset b n)) = v.extractLsb' 0 5 ∧
      (t.line (lineOffset b n)).getLsbD 7 = false ∧
      (∀ a, a ≠ lineOffset b n → t.line a = s.line a) ∧
      t = { s with window := t.window, history := .memWrite r (lineAddr s b n) v :: s.history }

/-! ## The command word -/

/-- R60 to R63, R72: decoding the word of a well-formed command gives the command back, whatever its operands. -/
def Obligations.DecodeOfEncodeIsTheCommand : Prop :=
  ∀ i : Instr, i.wellFormed = true → decode (encode i) = .ok i

/-- R63: a word that decodes is the word of the command it decodes to, and of no other well-formed command. -/
def Obligations.DecodedWordEncodesBack : Prop :=
  ∀ (w : Command) (i : Instr), decode w = .ok i →
    i.wellFormed = true ∧ encode i = w ∧ ∀ j : Instr, j.wellFormed = true → encode j = w → j = i

/-- R69: which words are a command of each port; every other word is reserved there. -/
def Obligations.CommandWordsOfEachPort : Prop :=
  ∀ w : Command,
    ((∃ i, decode w = .ok i ∧ i.portClass = .requester) ↔
      zField w = false ∧ (opField w = 1#4 ∧ vField w = false ∨ opField w = 2#4 ∨ opField w = 3#4)) ∧
    ((∃ i, decode w = .ok i ∧ i.portClass = .lifecycle) ↔ w = 0x8000#16 ∨ w = 0x9000#16)

/-- R63, R72: words written out from the encodings decode to the commands they stand for, and reserved ones are rejected. -/
def Obligations.WrittenOutWordsDecode : Prop :=
  decode 0b0001010000010110#16 = .ok (.get 1 22) ∧
  decode 0b0010010100000000#16 = .ok (.set 1 0 true) ∧
  decode 0b0011100001000100#16 = .ok (.dirOut 2 68) ∧
  decode 0b0011000101000011#16 = .ok (.dirIn 0 67) ∧
  decode 0b1000000000000000#16 = .ok .attach ∧
  decode 0b1001000000000000#16 = .ok .detach ∧
  decode 0b0001010100010110#16 = .error .vBit ∧
  decode 0b0010011000000000#16 = .error .zBit ∧
  decode 0b1000000000000001#16 = .error .lifecycleOperand ∧
  decode 0xFFFF#16 = .error .opcode

/-! ## Addressing -/

/-- R110, R111: a line in range has an offset of at most 228 that holds a line register, its address is that far above the
window's base, and different lines have different offsets. R73: a global line number names the one line whose offset it is, and
a number in no bank names none. -/
def Obligations.LinesHaveDistinctAddressesInTheWindow : Prop :=
  (∀ (s : State) (b n b' n' : Nat), inRange b n = true → inRange b' n' = true →
    lineOffset b n ≤ 228 ∧ hasLine (lineOffset b n) = true ∧
    (lineAddr s b n - windowBase s.dba).toNat = lineOffset b n ∧
    (lineOffset b n = lineOffset b' n' → b = b' ∧ n = n')) ∧
  ∀ g b n : Nat, globalLine g = some (b, n) ↔ inRange b n = true ∧ lineOffset b n = g

/-! ## Steps -/

/-- R20, R23, R112, R113: while a port whose turn it is has a command in flight, a step runs the command its latch decodes to;
the outside then chooses the next step, which changes nothing but that choice (the model's own fields, log entry 8). -/
def Obligations.StepRunsTheLatchedCommand : Prop :=
  ∀ (s : State) (w : Command) (i : Instr), fetch s = some w → decode w = .ok i →
    step s = thenDraw (exec i s) ∧
    ∀ t, exec i s = .next t → ∃ u, step s = .next u ∧
      u = { t with turn := u.turn, inputs := u.inputs, script := u.script, drawn := u.drawn }

/-- R65, R72, R131: a well-formed command whose word is placed is the one the very next step runs, at its decode step. Placing a
word is the model's choice, log entry 12. -/
def Obligations.PlacedCommandRunsNext : Prop :=
  ∀ (s : State) (i : Instr), i.wellFormed = true →
    step (s.withFetchWord 16 (encode i).toNat) = thenDraw (exec i (s.withFetchWord 16 (encode i).toNat)) ∧
    (i.portClass = .lifecycle → LifecycleAt (s.withFetchWord 16 (encode i).toNat) .dec) ∧
    (i.portClass = .requester → ∃ q, RequesterAt (s.withFetchWord 16 (encode i).toNat) 0 q .dec ∧ q.cmd = encode i)

/-- R112, R140: an idle port latches the word the outside presents and goes to decode; nothing else changes. -/
def Obligations.IssueLatchesThePresentedWord : Prop :=
  (∀ (s : State) (r : Nat) (q : Requester) (w : Command), RequesterAt s r q .idle → s.inputs.word = some w →
    step s = .next ({ s with reqs := s.reqs.set r { q with cmd := w, phase := .dec },
                             history := .issue (.requester r) w :: s.history }).draw) ∧
  (∀ (s : State) (w : Command), LifecycleAt s .idle → s.inputs.word = some w →
    step s = .next ({ s with lcmd := w, lstep := .dec, history := .issue .lifecycle w :: s.history }).draw)

/-- R125, R158: a port in its response phase goes idle when the outside takes the response, and keeps every latch; until then
nothing changes. -/
def Obligations.ResponseTakenFreesThePort : Prop :=
  (∀ (s : State) (r : Nat) (q : Requester), RequesterAt s r q .resp →
    step s = .next (if s.inputs.taken then { s with reqs := s.reqs.set r { q with phase := .idle } } else s).draw) ∧
  (∀ s : State, LifecycleAt s .resp →
    step s = .next (if s.inputs.taken then { s with lstep := .idle } else s).draw)

/-- R65, R69, R166: a reserved word is answered `InvalidCommand` (response `0x06`) in the decode step, and so is a command
presented on a port of the other class; nothing else changes. -/
def Obligations.ReservedWordAnswersInvalidCommand : Prop :=
  (∀ (s : State) (r : Nat) (q : Requester) (e : Reserved), RequesterAt s r q .dec → decode q.cmd = .error e →
    step s = .next ({ s with reqs := s.reqs.set r { q with rsp := 0x06#8, phase := .resp },
                             history := .response (.requester r) 0x06#8 :: s.history }).draw) ∧
  (∀ (s : State) (e : Reserved), LifecycleAt s .dec → decode s.lcmd = .error e →
    step s = .next ({ s with lrsp := 0x06#8, lstep := .resp,
                             history := .response .lifecycle 0x06#8 :: s.history }).draw) ∧
  (∀ (s : State) (i : Instr), LifecycleAt s .dec → i.portClass = .requester →
    exec i s = .next { s with lrsp := 0x06#8, lstep := .resp, history := .response .lifecycle 0x06#8 :: s.history }) ∧
  (∀ (s : State) (i : Instr) (r : Nat) (q : Requester), RequesterAt s r q .dec → i.portClass = .lifecycle →
    exec i s = .next { s with reqs := s.reqs.set r { q with rsp := 0x06#8, phase := .resp },
                              history := .response (.requester r) 0x06#8 :: s.history })

/-! ## The gate of the line commands -/

/-- R113, R165: outside `Attached` every line command is answered `WrongState` (`0x05`) in its decode step, whatever its line. -/
def Obligations.GateRefusesOutsideAttached : Prop :=
  ∀ (s : State) (i : Instr) (r : Nat) (q : Requester), RequesterAt s r q .dec → i.portClass = .requester →
    s.lc ≠ .attached →
    exec i s = .next { s with reqs := s.reqs.set r { q with rsp := 0x05#8, phase := .resp },
                              history := .response (.requester r) 0x05#8 :: s.history }

/-- R111, R167: in `Attached` a line command whose index is not below its bank's line count (68, 23, 69, none for bank 3) is
answered `InvalidLineIndex` (`0x04`) in its decode step, with no bus access and no lock. -/
def Obligations.GateRefusesLineOutOfRange : Prop :=
  ∀ (s : State) (i : Instr) (r b n : Nat) (q : Requester), RequesterAt s r q .dec → lineOf i = some (b, n) →
    s.lc = .attached →
    (if b = 0 then 68 else if b = 1 then 23 else if b = 2 then 69 else 0) ≤ n →
    exec i s = .next { s with reqs := s.reqs.set r { q with rsp := 0x04#8, phase := .resp },
                              history := .response (.requester r) 0x04#8 :: s.history }

/-- R113: in `Attached` a line command on a line of its bank goes to its unlocked read (`GET`) or to the lock (the others), and
nothing else changes. -/
def Obligations.GatePassesLineInRange : Prop :=
  ∀ (s : State) (i : Instr) (r b n : Nat) (q : Requester), RequesterAt s r q .dec → lineOf i = some (b, n) →
    s.lc = .attached →
    n < (if b = 0 then 68 else if b = 1 then 23 else if b = 2 then 69 else 0) →
    exec i s = .next { s with reqs := s.reqs.set r { q with phase := if takesLock i then .acq else .rdu } }

/-! ## GET -/

/-- R114: the read step of `GET` reads the line once and answers the level of that byte with status `OK`: the pad on an input
line, the stored output level on an output line. It neither takes nor waits for the lock and writes nothing. -/
def Obligations.GetAnswersTheLevel : Prop :=
  ∀ (s : State) (r b n : Nat) (q : Requester), RequesterAt s r q .rdu → LineUsable s b n →
    ∃ v w : Byte,
      exec (.get b n) s = .next { s with
        reqs := s.reqs.set r { q with reg := v, rsp := w, phase := .resp },
        history := .response (.requester r) w :: .memRead r (lineAddr s b n) v :: s.history } ∧
      v = withInputBit (s.line (lineOffset b n))
        (if isInput (s.line (lineOffset b n)) then s.inputs.padIn else s.inputs.outputBit7) ∧
      w = (if (if isInput (s.line (lineOffset b n)) then s.inputs.padIn else outputLevel (s.line (lineOffset b n)))
        then 0x80#8 else 0x00#8)

/-! ## The read-modify-write frame -/

/-- R116: a command that takes the lock takes a free one, in one step, and while the lock is held it holds and nothing
changes. -/
def Obligations.AcquireTakesFreeLockOrHolds : Prop :=
  ∀ (s : State) (i : Instr) (r : Nat) (q : Requester), RequesterAt s r q .acq → takesLock i = true →
    exec i s = .next (if s.lockHeld then s else
      { s with lockHeld := true, lockOwner := r, reqs := s.reqs.set r { q with phase := .rdl },
               history := .lockAcquire r :: s.history })

/-- R117: the locked read latches the byte read, and its bit 5 decides between the direction write, the level write and the
release. -/
def Obligations.LockedReadDecidesTheWrites : Prop :=
  ∀ (s : State) (r b n : Nat) (q : Requester) (lv : Bool), RequesterAt s r q .rdl → LineUsable s b n →
    (exec (.dirIn b n) s = .next { s with
      reqs := s.reqs.set r { q with reg := s.readLine (lineOffset b n),
                                    phase := if isInput (s.line (lineOffset b n)) then .rel else .w1 },
      history := .memRead r (lineAddr s b n) (s.readLine (lineOffset b n)) :: s.history }) ∧
    (exec (.dirOut b n) s = .next { s with
      reqs := s.reqs.set r { q with reg := s.readLine (lineOffset b n),
                                    phase := if isInput (s.line (lineOffset b n)) then .w1 else .rel },
      history := .memRead r (lineAddr s b n) (s.readLine (lineOffset b n)) :: s.history }) ∧
    (exec (.set b n lv) s = .next { s with
      reqs := s.reqs.set r { q with reg := s.readLine (lineOffset b n),
                                    phase := if isInput (s.line (lineOffset b n)) then .w1 else .w2 },
      history := .memRead r (lineAddr s b n) (s.readLine (lineOffset b n)) :: s.history })

/-- R121: the direction write of `DIR_IN` writes the latched byte with bit 5 set, that of `DIR_OUT` with bit 5 clear; each then
goes to the release. -/
def Obligations.DirectionWriteStep : Prop :=
  ∀ (s : State) (r b n : Nat) (q : Requester), RequesterAt s r q .w1 → LineUsable s b n →
    (exec (.dirIn b n) s = .next { s with
      reqs := s.reqs.set r { q with reg := q.reg ||| 0x20#8, phase := .rel },
      window := s.window.write .window (lineOffset b n) (q.reg ||| 0x20#8),
      history := .memWrite r (lineAddr s b n) (q.reg ||| 0x20#8) :: s.history }) ∧
    (exec (.dirOut b n) s = .next { s with
      reqs := s.reqs.set r { q with reg := q.reg &&& 0xDF#8, phase := .rel },
      window := s.window.write .window (lineOffset b n) (q.reg &&& 0xDF#8),
      history := .memWrite r (lineAddr s b n) (q.reg &&& 0xDF#8) :: s.history })

/-- R122, R123: `SET`'s direction write clears bit 5 of the latched byte, writes it and goes to the level write; the level
write sets or clears bit 6, writes the byte and goes to the release. -/
def Obligations.SetWriteSteps : Prop :=
  ∀ (s : State) (r b n : Nat) (q : Requester) (lv : Bool), LineUsable s b n →
    (RequesterAt s r q .w1 →
      exec (.set b n lv) s = .next { s with
        reqs := s.reqs.set r { q with reg := q.reg &&& 0xDF#8, phase := .w2 },
        window := s.window.write .window (lineOffset b n) (q.reg &&& 0xDF#8),
        history := .memWrite r (lineAddr s b n) (q.reg &&& 0xDF#8) :: s.history }) ∧
    (RequesterAt s r q .w2 →
      exec (.set b n lv) s = .next { s with
        reqs := s.reqs.set r { q with reg := (if lv then q.reg ||| 0x40#8 else q.reg &&& 0xBF#8), phase := .rel },
        window := s.window.write .window (lineOffset b n) (if lv then q.reg ||| 0x40#8 else q.reg &&& 0xBF#8),
        history := .memWrite r (lineAddr s b n) (if lv then q.reg ||| 0x40#8 else q.reg &&& 0xBF#8) :: s.history })

/-- R124: the release step gives the lock back, keeps its owner field, and answers `OK` (`0x00`). -/
def Obligations.ReleaseAnswersOk : Prop :=
  ∀ (s : State) (i : Instr) (r : Nat) (q : Requester), RequesterAt s r q .rel → takesLock i = true →
    exec i s = .next { s with lockHeld := false, reqs := s.reqs.set r { q with rsp := 0x00#8, phase := .resp },
                              history := .response (.requester r) 0x00#8 :: .lockRelease r :: s.history }

/-! ## Whole line commands, alone -/

/-- R118: on an output line `DIR_IN` reads and writes once; the line becomes an input, keeps its stored output level and low
bits, and its pad is no longer driven. On a line that is already an input it reads once and writes nothing. -/
def Obligations.DirInWritesOnlyAnOutputLine : Prop :=
  ∀ (s : State) (r b n : Nat) (q : Requester) (x1 x2 x3 x4 x5 : Inputs), RequesterAt s r q .dec → s.lc = .attached →
    s.lockHeld = false → LineUsable s b n →
    (isInput (s.line (lineOffset b n)) = false →
      let v := withInputBit (s.line (lineOffset b n)) x3.outputBit7
      ∃ t : State, execWith (.dirIn b n) [x1, x2, x3, x4, x5] s = .next t ∧
        t = { s with
          reqs := s.reqs.set r { q with reg := v ||| 0x20#8, rsp := 0x00#8, phase := .resp }, lockOwner := r,
          inputs := x5, window := t.window,
          history := [.response (.requester r) 0x00#8, .lockRelease r, .memWrite r (lineAddr s b n) (v ||| 0x20#8),
            .memRead r (lineAddr s b n) v, .lockAcquire r] ++ s.history } ∧
        t.drives (lineOffset b n) = none ∧
        outputLevel (t.line (lineOffset b n)) = outputLevel (s.line (lineOffset b n)) ∧
        lowBits (t.line (lineOffset b n)) = lowBits (s.line (lineOffset b n)) ∧
        ∀ a, a ≠ lineOffset b n → t.line a = s.line a) ∧
    (isInput (s.line (lineOffset b n)) = true →
      let v := withInputBit (s.line (lineOffset b n)) x3.padIn
      execWith (.dirIn b n) [x1, x2, x3, x4] s = .next { s with
        reqs := s.reqs.set r { q with reg := v, rsp := 0x00#8, phase := .resp }, lockOwner := r, inputs := x4,
        history := [.response (.requester r) 0x00#8, .lockRelease r, .memRead r (lineAddr s b n) v, .lockAcquire r] ++
          s.history })

/-- R119: on an input line `DIR_OUT` reads and writes once, and the pad is then driven at the stored output level; on an output
line it writes nothing. -/
def Obligations.DirOutDrivesTheStoredLevel : Prop :=
  ∀ (s : State) (r b n : Nat) (q : Requester) (x1 x2 x3 x4 x5 : Inputs), RequesterAt s r q .dec → s.lc = .attached →
    s.lockHeld = false → LineUsable s b n →
    (isInput (s.line (lineOffset b n)) = true →
      let v := withInputBit (s.line (lineOffset b n)) x3.padIn
      ∃ t : State, execWith (.dirOut b n) [x1, x2, x3, x4, x5] s = .next t ∧
        t = { s with
          reqs := s.reqs.set r { q with reg := v &&& 0xDF#8, rsp := 0x00#8, phase := .resp }, lockOwner := r,
          inputs := x5, window := t.window,
          history := [.response (.requester r) 0x00#8, .lockRelease r, .memWrite r (lineAddr s b n) (v &&& 0xDF#8),
            .memRead r (lineAddr s b n) v, .lockAcquire r] ++ s.history } ∧
        t.drives (lineOffset b n) = some (outputLevel (s.line (lineOffset b n))) ∧
        lowBits (t.line (lineOffset b n)) = lowBits (s.line (lineOffset b n)) ∧
        ∀ a, a ≠ lineOffset b n → t.line a = s.line a) ∧
    (isInput (s.line (lineOffset b n)) = false →
      let v := withInputBit (s.line (lineOffset b n)) x3.outputBit7
      execWith (.dirOut b n) [x1, x2, x3, x4] s = .next { s with
        reqs := s.reqs.set r { q with reg := v, rsp := 0x00#8, phase := .resp }, lockOwner := r, inputs := x4,
        history := [.response (.requester r) 0x00#8, .lockRelease r, .memRead r (lineAddr s b n) v, .lockAcquire r] ++
          s.history })

/-- R120: on an input line `SET` reads once and writes twice, first the byte with bit 5 clear, then with the level in bit 6;
the line is then an output driven at the level asked, its low bits kept. -/
def Obligations.SetOnInputLineWritesTwice : Prop :=
  ∀ (s : State) (r b n : Nat) (q : Requester) (lv : Bool) (x1 x2 x3 x4 x5 x6 : Inputs), RequesterAt s r q .dec →
    s.lc = .attached → s.lockHeld = false → LineUsable s b n → isInput (s.line (lineOffset b n)) = true →
    let v := withInputBit (s.line (lineOffset b n)) x3.padIn
    let w1 := v &&& 0xDF#8
    let w2 := if lv then w1 ||| 0x40#8 else w1 &&& 0xBF#8
    ∃ t : State, execWith (.set b n lv) [x1, x2, x3, x4, x5, x6] s = .next t ∧
      t = { s with
        reqs := s.reqs.set r { q with reg := w2, rsp := 0x00#8, phase := .resp }, lockOwner := r, inputs := x6,
        window := t.window,
        history := [.response (.requester r) 0x00#8, .lockRelease r, .memWrite r (lineAddr s b n) w2,
          .memWrite r (lineAddr s b n) w1, .memRead r (lineAddr s b n) v, .lockAcquire r] ++ s.history } ∧
      t.drives (lineOffset b n) = some lv ∧
      lowBits (t.line (lineOffset b n)) = lowBits (s.line (lineOffset b n)) ∧
      ∀ a, a ≠ lineOffset b n → t.line a = s.line a

/-- R120: on an output line `SET` reads once and writes once, even when the level is already the one asked. -/
def Obligations.SetOnOutputLineWritesOnce : Prop :=
  ∀ (s : State) (r b n : Nat) (q : Requester) (lv : Bool) (x1 x2 x3 x4 x5 : Inputs), RequesterAt s r q .dec →
    s.lc = .attached → s.lockHeld = false → LineUsable s b n → isInput (s.line (lineOffset b n)) = false →
    let v := withInputBit (s.line (lineOffset b n)) x3.outputBit7
    let w := if lv then v ||| 0x40#8 else v &&& 0xBF#8
    ∃ t : State, execWith (.set b n lv) [x1, x2, x3, x4, x5] s = .next t ∧
      t = { s with
        reqs := s.reqs.set r { q with reg := w, rsp := 0x00#8, phase := .resp }, lockOwner := r, inputs := x5,
        window := t.window,
        history := [.response (.requester r) 0x00#8, .lockRelease r, .memWrite r (lineAddr s b n) w,
          .memRead r (lineAddr s b n) v, .lockAcquire r] ++ s.history } ∧
      t.drives (lineOffset b n) = some lv ∧
      lowBits (t.line (lineOffset b n)) = lowBits (s.line (lineOffset b n)) ∧
      ∀ a, a ≠ lineOffset b n → t.line a = s.line a

/-- R129: against a `SET` on an input line a `GET` of the same line by another requester answers the pad before the first
write, the old stored output level between the two writes, and the level asked after the second. -/
def Obligations.GetNextToSetSeesThreeLevels : Prop :=
  ∀ (s : State) (r r' b n : Nat) (q q' : Requester) (lv : Bool), RequesterAt s r q .w1 → r' ≠ r →
    s.reqs[r']? = some q' → q'.phase = .rdu → LineUsable s b n → isInput (s.line (lineOffset b n)) = true →
    Space.stored .window q.reg = s.line (lineOffset b n) →
    ∃ s1 s2 t0 t1 t2 : State,
      exec (.set b n lv) s = .next s1 ∧ exec (.set b n lv) s1 = .next s2 ∧
      exec (.get b n) { s with turn := .requester r' } = .next t0 ∧
      exec (.get b n) { s1 with turn := .requester r' } = .next t1 ∧
      exec (.get b n) { s2 with turn := .requester r' } = .next t2 ∧
      t0.reqs[r']?.map Requester.rsp = some (responseWord s.inputs.padIn 0#4) ∧
      t1.reqs[r']?.map Requester.rsp = some (responseWord (outputLevel (s.line (lineOffset b n))) 0#4) ∧
      t2.reqs[r']?.map Requester.rsp = some (responseWord lv 0#4)

/-- R110, R127, R178: what a step of a line command leaves alone. The lifecycle state, the environment's state, the
configuration and every other requester's latches are unchanged; every line register but the one at the command's address is
unchanged, and all are for `GET`, which leaves the lock alone too. -/
def Obligations.LineCommandFrame : Prop :=
  ∀ (s t : State) (i : Instr) (r b n : Nat), s.turn = .requester r → lineOf i = some (b, n) → exec i s = .next t →
    t = { s with reqs := t.reqs, window := t.window, lockHeld := t.lockHeld, lockOwner := t.lockOwner,
                 history := t.history } ∧
    (∀ r', r' ≠ r → t.reqs[r']? = s.reqs[r']?) ∧
    (∀ a, lineAt s (lineAddr s b n) ≠ some a → t.line a = s.line a) ∧
    (takesLock i = false → t.window = s.window ∧ t.lockHeld = s.lockHeld ∧ t.lockOwner = s.lockOwner)

/-- R127: a step of a requester whose command is on one line leaves every other line register as it was. -/
def Obligations.LinesDoNotInterfere : Prop :=
  ∀ (s t : State) (i : Instr) (r b n : Nat) (q : Requester), s.turn = .requester r → s.reqs[r]? = some q →
    decode q.cmd = .ok i → lineOf i = some (b, n) → inRange b n = true → step s = .next t →
    ∀ a, a ≠ lineOffset b n → t.line a = s.line a

/-! ## ATTACH -/

/-- R141, R151, R165: in its decode step `ATTACH` starts discovery from `Unattached` and `DETACH` the drain from `Attached`; from
any other lifecycle state each is answered `WrongState` (`0x05`), and nothing else changes. -/
def Obligations.LifecycleDecodeSteps : Prop :=
  ∀ s : State, LifecycleAt s .dec →
    exec .attach s = .next (if s.lc = .unattached then { s with lc := .discovering, lstep := .pres } else
      { s with lrsp := 0x05#8, lstep := .resp, history := .response .lifecycle 0x05#8 :: s.history }) ∧
    exec .detach s = .next (if s.lc = .attached then { s with lc := .detaching, lstep := .dwait } else
      { s with lrsp := 0x05#8, lstep := .resp, history := .response .lifecycle 0x05#8 :: s.history })

/-- R142: a granted port reservation clears the accumulator and starts the base read; a refused one ends the `ATTACH` with
`ResourceConflict` (`0x01`), back in `Unattached`. -/
def Obligations.PortReservationStep : Prop :=
  ∀ s : State, LifecycleAt s .pres →
    (s.inputs.answer = .ok →
      exec .attach s = .next { s with portsRsvd := true, acc := 0#24, lstep := .idx1,
                                      history := .env .reservePorts (some .ok) :: s.history }) ∧
    (∀ k, s.inputs.answer = .fail k →
      exec .attach s = .next { s with
        lc := .unattached, lrsp := 0x01#8, lstep := .resp,
        history := .response .lifecycle 0x01#8 :: .env .reservePorts (some (.fail k)) :: s.history })

/-- R80 to R86, R143: the base read makes six port events, index write and data read of lanes 1, 2 and 3 in this order, leaves
the three bytes in `ACC`, the first the most significant, and leaves the index register at the last lane's address. -/
def Obligations.BaseReadAssemblesThreeLanes : Prop :=
  ∀ (s : State) (x1 x2 x3 x4 x5 x6 : Inputs), LifecycleAt s .idx1 → s.portsRsvd = true → s.acc = 0#24 →
    let a := fun k => laneAddress s.params.laneOrder 0x24#8 k
    let d := fun k => s.configSpace.read .config (a k).toNat
    execWith .attach [x1, x2, x3, x4, x5, x6] s = .next { s with
      acc := d 1 ++ d 2 ++ d 3, idxReg := a 3, lstep := .prel, inputs := x6,
      history := [.ioRead (s.params.indexPort + 1) (d 3), .ioWrite s.params.indexPort (a 3),
        .ioRead (s.params.indexPort + 1) (d 2), .ioWrite s.params.indexPort (a 2),
        .ioRead (s.params.indexPort + 1) (d 1), .ioWrite s.params.indexPort (a 1)] ++ s.history }

/-- R88: with the default lane order, a configuration space that holds 0x12, 0x34, 0x56 at 0x25, 0x26, 0x27 gives the value
0x123456, and its default base is 0x00123400 (R90) and its window is at 0x00123500 (R91). -/
def Obligations.SourcesDiscoveryExample : Prop :=
  ∀ m : Memory, m.read .config 0x25 = 0x12#8 → m.read .config 0x26 = 0x34#8 → m.read .config 0x27 = 0x56#8 →
    readBase .ascending m 0x24#8 = 0x123456#24 ∧
    baseOf .mask (readBase .ascending m 0x24#8) = 0x00123400#32 ∧
    windowBase (baseOf .mask (readBase .ascending m 0x24#8)) = 0x00123500#32

/-- R90, R91, R44: whatever value the reader returns, the base is aligned to 256 in every form of `baseOf`, so is the window,
and no address of the window wraps. -/
def Obligations.WindowIsAlignedAndDoesNotWrap : Prop :=
  ∀ (form : BaseForm) (v : BitVec 24),
    (baseOf form v).extractLsb' 0 8 = 0#8 ∧ (windowBase (baseOf form v)).extractLsb' 0 8 = 0#8 ∧
    ∀ o, o < 256 → (windowBase (baseOf form v) + BitVec.ofNat 32 o).toNat = (windowBase (baseOf form v)).toNat + o

/-- R144, R145, R146: the ports are released and the base is written; the region is reserved, or the `ATTACH` ends with
`ResourceConflict`; the window is mapped, or the failure is noted, the region released and the `ATTACH` ended
with the noted code. -/
def Obligations.WindowAcquisitionSteps : Prop :=
  ∀ s : State,
    (LifecycleAt s .prel → exec .attach s = .next { s with
      portsRsvd := false, dba := baseOf s.params.baseForm s.acc, lc := .windowAcquired, lstep := .rres,
      history := .env .releasePorts none :: s.history }) ∧
    (LifecycleAt s .rres → s.inputs.answer = .ok → exec .attach s = .next { s with
      regionRsvd := true, lstep := .map,
      history := .env (.reserveRegion (s.dba + 0x100#32) 0x100) (some .ok) :: s.history }) ∧
    (∀ k, LifecycleAt s .rres → s.inputs.answer = .fail k → exec .attach s = .next { s with
      lc := .unattached, lrsp := 0x01#8, lstep := .resp,
      history := .response .lifecycle 0x01#8 ::
        .env (.reserveRegion (s.dba + 0x100#32) 0x100) (some (.fail k)) :: s.history }) ∧
    (LifecycleAt s .map → s.inputs.answer = .ok → exec .attach s = .next { s with
      mapped := true, lc := .banksRegistering, lstep := .reg0,
      history := .env (.map (s.dba + 0x100#32) 0x100) (some .ok) :: s.history }) ∧
    (∀ k, LifecycleAt s .map → s.inputs.answer = .fail k → exec .attach s = .next { s with
      errk := 2#4, lstep := .mfrel,
      history := .env (.map (s.dba + 0x100#32) 0x100) (some (.fail k)) :: s.history }) ∧
    (LifecycleAt s .mfrel → exec .attach s = .next { s with
      regionRsvd := false, lc := .unattached, lrsp := 0b0000#4 ++ s.errk, lstep := .resp,
      history := .response .lifecycle (0b0000#4 ++ s.errk) :: .env .releaseRegion none :: s.history })

/-- R147: a bank that is registered is enabled and the next one follows, and after bank 2 the controller is `Attached` and
answers `OK`; a refused registration notes its own kind and starts the rollback below the banks registered so far. -/
def Obligations.BankRegistrationSteps : Prop :=
  ∀ s : State,
    (LifecycleAt s .reg0 → s.inputs.answer = .ok → exec .attach s = .next { s with
      bankEn := { s.bankEn with b0 := true }, lstep := .reg1,
      history := .env (.register 0 0 68) (some .ok) :: s.history }) ∧
    (LifecycleAt s .reg1 → s.inputs.answer = .ok → exec .attach s = .next { s with
      bankEn := { s.bankEn with b1 := true }, lstep := .reg2,
      history := .env (.register 1 128 23) (some .ok) :: s.history }) ∧
    (LifecycleAt s .reg2 → s.inputs.answer = .ok → exec .attach s = .next { s with
      bankEn := { s.bankEn with b2 := true }, lc := .attached, lrsp := 0x00#8, lstep := .resp,
      history := .response .lifecycle 0x00#8 :: .env (.register 2 160 69) (some .ok) :: s.history }) ∧
    ∀ k : FailKind, s.inputs.answer = .fail k →
      let code : BitVec 4 := match k with
        | .resourceConflict => 1#4
        | .mappingFailure => 2#4
        | .registrationFailure => 3#4
      (LifecycleAt s .reg0 → exec .attach s = .next { s with
        errk := code, lstep := .rbunmap, history := .env (.register 0 0 68) (some (.fail k)) :: s.history }) ∧
      (LifecycleAt s .reg1 → exec .attach s = .next { s with
        errk := code, lstep := .rbu0, history := .env (.register 1 128 23) (some (.fail k)) :: s.history }) ∧
      (LifecycleAt s .reg2 → exec .attach s = .next { s with
        errk := code, lstep := .rbu1, history := .env (.register 2 160 69) (some (.fail k)) :: s.history })

/-- R149, R150: the rollback unregisters bank 1, then bank 0, whatever the environment answers, unmaps, releases the region and
ends the `ATTACH` in `Unattached` with the code that was noted. -/
def Obligations.RollbackSteps : Prop :=
  ∀ s : State,
    (LifecycleAt s .rbu1 → exec .attach s = .next { s with
      bankEn := { s.bankEn with b1 := false }, lstep := .rbu0,
      history := .env (.unregister 1) (some s.inputs.answer) :: s.history }) ∧
    (LifecycleAt s .rbu0 → exec .attach s = .next { s with
      bankEn := { s.bankEn with b0 := false }, lstep := .rbunmap,
      history := .env (.unregister 0) (some s.inputs.answer) :: s.history }) ∧
    (LifecycleAt s .rbunmap → exec .attach s = .next { s with
      mapped := false, lstep := .rbrrel, history := .env .unmap none :: s.history }) ∧
    (LifecycleAt s .rbrrel → exec .attach s = .next { s with
      regionRsvd := false, lc := .unattached, lrsp := 0b0000#4 ++ s.errk, lstep := .resp,
      history := .response .lifecycle (0b0000#4 ++ s.errk) :: .env .releaseRegion none :: s.history })

/-- R141: `ATTACH` from `Unattached`, every answer `ok`, ends `Attached` with response `OK`: the base is `baseOf` of the three
lanes, the window is held and mapped, the three banks are enabled, the ports are free, and the event history is that of R99
and R147 in order. -/
def Obligations.AttachSucceeds : Prop :=
  ∀ (s : State) (xs : List Inputs), LifecycleAt s .dec → s.lc = .unattached → xs.length = 14 →
    (∀ x ∈ xs, x.answer = .ok) →
    let a := fun k => laneAddress s.params.laneOrder 0x24#8 k
    let d := fun k => s.configSpace.read .config (a k).toNat
    let base := baseOf s.params.baseForm (d 1 ++ d 2 ++ d 3)
    ∃ t : State, execWith .attach xs s = .next t ∧
      t = { s with
        lc := .attached, lstep := .resp, lrsp := 0x00#8, acc := d 1 ++ d 2 ++ d 3, dba := base, portsRsvd := false,
        regionRsvd := true, mapped := true, bankEn := { b0 := true, b1 := true, b2 := true }, idxReg := a 3,
        inputs := t.inputs,
        history := [.response .lifecycle 0x00#8, .env (.register 2 160 69) (some .ok), .env (.register 1 128 23) (some .ok),
          .env (.register 0 0 68) (some .ok), .env (.map (base + 0x100#32) 0x100) (some .ok),
          .env (.reserveRegion (base + 0x100#32) 0x100) (some .ok), .env .releasePorts none,
          .ioRead (s.params.indexPort + 1) (d 3), .ioWrite s.params.indexPort (a 3),
          .ioRead (s.params.indexPort + 1) (d 2), .ioWrite s.params.indexPort (a 2),
          .ioRead (s.params.indexPort + 1) (d 1), .ioWrite s.params.indexPort (a 1),
          .env .reservePorts (some .ok)] ++ s.history }

/-- R159: an `ATTACH` whose registration of bank 2 fails unregisters banks 1 and 0, whatever the answers, unmaps, releases the
region and is back in `Unattached` holding nothing, with the failure's own kind as its status. -/
def Obligations.AttachRollsBackFailedBankTwo : Prop :=
  ∀ (s : State) (xs : List Inputs) (z w1 w2 w3 w4 : Inputs) (k : FailKind), Inv s → LifecycleAt s .dec →
    s.lc = .unattached → xs.length = 13 → (∀ x ∈ xs, x.answer = .ok) → z.answer = .fail k →
    ∃ (t : State) (port : List Event), execWith .attach (xs ++ [z, w1, w2, w3, w4]) s = .next t ∧
      t.lc = .unattached ∧ t.lstep = .resp ∧ t.holdings = Holdings.plain false false ∧ t.lrsp = 0b0000#4 ++ (failStatus k).code ∧
      t.window = s.window ∧ t.reqs = s.reqs ∧ port.length = 6 ∧
      (∀ e ∈ port, (∃ p v, e = .ioWrite p v) ∨ (∃ p v, e = .ioRead p v)) ∧
      t.history = [.response .lifecycle t.lrsp, .env .releaseRegion none, .env .unmap none,
        .env (.unregister 0) (some w2.answer), .env (.unregister 1) (some w1.answer),
        .env (.register 2 160 69) (some (.fail k)), .env (.register 1 128 23) (some .ok),
        .env (.register 0 0 68) (some .ok), .env (.map (t.dba + 0x100#32) 0x100) (some .ok),
        .env (.reserveRegion (t.dba + 0x100#32) 0x100) (some .ok), .env .releasePorts none] ++ port ++
        [.env .reservePorts (some .ok)] ++ s.history

/-! ## DETACH -/

/-- R152: the drain step holds, with no change, while some requester is busy, and goes on to the banks when none is. -/
def Obligations.DrainWaitsForBusyRequesters : Prop :=
  ∀ s : State, LifecycleAt s .dwait →
    ((∃ (r : Nat) (q : Requester), s.reqs[r]? = some q ∧ q.phase ≠ .idle ∧ q.phase ≠ .dec ∧ q.phase ≠ .resp) →
      exec .detach s = .next s) ∧
    ((∀ (r : Nat) (q : Requester), s.reqs[r]? = some q → q.phase = .idle ∨ q.phase = .dec ∨ q.phase = .resp) →
      exec .detach s = .next { s with lstep := .unreg2 })

/-- R154, R155, R156: the teardown unregisters bank 2, then 1, then 0, whatever the environment answers, unmaps, releases the
region and ends the `DETACH` in `Unattached` with response `OK` (`0x00`). -/
def Obligations.DetachTeardownSteps : Prop :=
  ∀ s : State,
    (LifecycleAt s .unreg2 → exec .detach s = .next { s with
      bankEn := { s.bankEn with b2 := false }, lstep := .unreg1,
      history := .env (.unregister 2) (some s.inputs.answer) :: s.history }) ∧
    (LifecycleAt s .unreg1 → exec .detach s = .next { s with
      bankEn := { s.bankEn with b1 := false }, lstep := .unreg0,
      history := .env (.unregister 1) (some s.inputs.answer) :: s.history }) ∧
    (LifecycleAt s .unreg0 → exec .detach s = .next { s with
      bankEn := { s.bankEn with b0 := false }, lstep := .unmap,
      history := .env (.unregister 0) (some s.inputs.answer) :: s.history }) ∧
    (LifecycleAt s .unmap → exec .detach s = .next { s with
      mapped := false, lstep := .rrel, history := .env .unmap none :: s.history }) ∧
    (LifecycleAt s .rrel → exec .detach s = .next { s with
      regionRsvd := false, lc := .unattached, lrsp := 0x00#8, lstep := .resp,
      history := .response .lifecycle 0x00#8 :: .env .releaseRegion none :: s.history })

/-- R151, R154 to R156: `DETACH` from `Attached` with no requester busy unregisters banks 2, 1, 0, whatever the answers, unmaps,
releases the region, and ends `Unattached` with response `OK`; no line register changes (R153). -/
def Obligations.DetachTearsDownInReverse : Prop :=
  ∀ (s : State) (x1 x2 x3 x4 x5 x6 x7 : Inputs), LifecycleAt s .dec → s.lc = .attached →
    (∀ (r : Nat) (q : Requester), s.reqs[r]? = some q → q.phase.busy = false) →
    execWith .detach [x1, x2, x3, x4, x5, x6, x7] s = .next { s with
      lc := .unattached, lstep := .resp, lrsp := 0x00#8, regionRsvd := false, mapped := false,
      bankEn := { b0 := false, b1 := false, b2 := false }, inputs := x7,
      history := [.response .lifecycle 0x00#8, .env .releaseRegion none, .env .unmap none,
        .env (.unregister 0) (some x5.answer), .env (.unregister 1) (some x4.answer),
        .env (.unregister 2) (some x3.answer)] ++ s.history }

/-- R153, R190: no step on the lifecycle port touches a line register, a requester or the lock, and no such step of `DETACH`
touches the base, the accumulator or the index register. -/
def Obligations.LifecycleCommandFrame : Prop :=
  ∀ s t : State, s.turn = .lifecycle → step s = .next t →
    t.window = s.window ∧ t.reqs = s.reqs ∧ t.lockHeld = s.lockHeld ∧ t.lockOwner = s.lockOwner ∧
    (decode s.lcmd = .ok .detach → t.dba = s.dba ∧ t.acc = s.acc ∧ t.idxReg = s.idxReg ∧ t.portsRsvd = s.portsRsvd)

/-! ## The whole machine -/

/-- R185: the controller after reset is in `Unattached`, idle, holding nothing, its ports idle, and there is at least one
requester port. -/
def Obligations.ResetHoldsNothing : Prop :=
  State.reset.lc = .unattached ∧ State.reset.lstep = .idle ∧ State.reset.portsRsvd = false ∧
  State.reset.regionRsvd = false ∧ State.reset.mapped = false ∧
  State.reset.bankEn = { b0 := false, b1 := false, b2 := false } ∧ State.reset.lockHeld = false ∧
  1 ≤ State.reset.reqs.length ∧
  ∀ (r : Nat) (q : Requester), State.reset.reqs[r]? = some q → q.phase = .idle

/-- The invariant holds after reset (R185). -/
def Obligations.ResetMeetsTheInvariant : Prop := Inv State.reset

/-- R20, R21, R23, R30, R82 to R84: every step of every agent keeps the invariant, from every state that meets it. -/
def Obligations.EveryStepKeepsTheInvariant : Prop :=
  ∀ s t : State, Inv s → step s = .next t → Inv t

/-- R48, R182 (c): from a state that meets the invariant the machine never stops. An access outside the mapped window, a port
access outside a reservation and a phase without a step are faults of the model (log entry 10, DEDUCED), so no step makes one. -/
def Obligations.TheMachineNeverStops : Prop :=
  ∀ s : State, Inv s → ∃ t, step s = .next t

/-- R30: the invariants (a) to (h) of the spec hold in every state that meets the invariant, and so in every reachable state,
whatever the schedule and the outside. -/
def Obligations.InvariantGivesSpecInvariants : Prop :=
  (∀ s : State, Inv s → SpecInvariants s) ∧ ∀ s : State, Reachable s → SpecInvariants s

/-- R126: at most one requester is between its acquire and its release. -/
def Obligations.MutualExclusion : Prop :=
  ∀ (s : State) (r r' : Nat) (q q' : Requester), Inv s → s.reqs[r]? = some q → s.reqs[r']? = some q' →
    q.phase.holdsLock = true → q'.phase.holdsLock = true → r = r'

/-- R47, R126: a step that changes a line register is a write step of the requester that holds the lock, with the window
mapped. -/
def Obligations.OnlyTheLockHolderWrites : Prop :=
  ∀ (s t : State) (a : Nat), Inv s → step s = .next t → t.line a ≠ s.line a →
    ∃ (r : Nat) (q : Requester), s.turn = .requester r ∧ s.reqs[r]? = some q ∧ (q.phase = .w1 ∨ q.phase = .w2) ∧
      s.lockHeld = true ∧ s.lockOwner = r ∧ s.mapped = true

/-- R116: a requester that holds the lock always has its next step, keeps the lock and its latches while others move, and
reaches its release step after at most three more steps of its own, which frees the lock. -/
def Obligations.HolderReachesReleaseInThreeSteps : Prop :=
  ∀ (s : State) (r : Nat) (q : Requester), Inv s → s.reqs[r]? = some q → q.phase.holdsLock = true →
    q.phase.stepsToRelease ≤ 3 ∧
    ∃ (t : State) (q' : Requester), step s = .next t ∧ t.reqs[r]? = some q' ∧
      (s.turn ≠ .requester r → q' = q ∧ t.lockHeld = true ∧ t.lockOwner = r) ∧
      (s.turn = .requester r → q.phase = .rel → q'.phase = .resp ∧ t.lockHeld = false) ∧
      (s.turn = .requester r → q.phase ≠ .rel →
        q'.phase.holdsLock = true ∧ q'.phase.stepsToRelease < q.phase.stepsToRelease)

/-- R96, R152: the window is never unmapped while a requester is busy, and while the controller is `Detaching` no requester
becomes busy. -/
def Obligations.DetachLetsBusyRequestersFinish : Prop :=
  ∀ (s t : State) (r : Nat) (q q' : Requester), Inv s → step s = .next t → s.reqs[r]? = some q → t.reqs[r]? = some q' →
    (s.mapped = true → t.mapped = false → q.phase.busy = false) ∧
    (s.lc = .detaching → q'.phase.busy = true → q.phase.busy = true)

/-- R204, R116, R152: in a fair run from a state that meets the invariant, every command in flight on a requester port and on
the lifecycle port is answered. -/
def Obligations.FairRunAnswersEveryCommand : Prop :=
  ∀ run : Nat → State, IsRun run → FairRun run → Inv (run 0) →
    (∀ (k r : Nat) (q : Requester), (run k).reqs[r]? = some q → q.phase ≠ .idle →
      ∃ (j : Nat) (q' : Requester), k ≤ j ∧ (run j).reqs[r]? = some q' ∧ q'.phase = .resp) ∧
    (∀ k : Nat, (run k).lstep ≠ .idle → ∃ j, k ≤ j ∧ (run j).lstep = .resp)

/-- R12: the lifecycle state moves only along the chain, or back to `Unattached` when an `ATTACH` fails. -/
def Obligations.LifecycleMovesAlongTheChain : Prop :=
  ∀ s t : State, Inv s → step s = .next t → s.lc.mayBecome t.lc = true

/-- R13, R144: only the port release step writes the base. From a state that meets the invariant it writes `baseOf` of the
three lanes, whatever other agents did between the lane steps (R80, R89). -/
def Obligations.BaseIsWrittenAtPortReleaseOnly : Prop :=
  ∀ s t : State, step s = .next t → t.dba ≠ s.dba →
    LifecycleAt s .prel ∧ t.dba = baseOf s.params.baseForm s.acc ∧
    (Inv s → t.dba = baseOf s.params.baseForm (readBase s.params.laneOrder s.configSpace 0x24#8))

/-- R68, R85, R200: no step of the controller ever writes an index other than 0x25, 0x26, 0x27 to the index port, and the event
history only grows. R82 to R84, R89: from a state that meets the invariant the data step of lane `k` finds the index register at
the address of lane `k`, which is not 0x24, so that lane 0 is never read; it reads that lane's byte and leaves in `ACC` the
bytes of lanes 1 to `k`, whatever other agents did between the lane steps. -/
def Obligations.LaneZeroIsNeverIndexed : Prop :=
  (∀ s t : State, step s = .next t →
    ∃ new : List Event, t.history = new ++ s.history ∧ ∀ e ∈ new, e.keepsLaneRule = true) ∧
  ∀ (s : State) (l : LStep) (k : Nat), Inv s → LifecycleAt s l → (l, k) ∈ [(.dat1, 1), (.dat2, 2), (.dat3, 3)] →
    s.idxReg = laneAddress s.params.laneOrder 0x24#8 k ∧ s.idxReg ≠ 0x24#8 ∧
    ∃ t : State, step s = .next t ∧
      t.acc = readLanes s.params.laneOrder s.configSpace 0x24#8 k ∧
      t.history = .ioRead (s.params.indexPort + 1) (laneByte s.params.laneOrder s.configSpace 0x24#8 k) :: s.history

/-- R24, R31: the configuration record, the configuration space and the number of requester ports never change. -/
def Obligations.ConfigurationIsConstant : Prop :=
  ∀ s t : State, step s = .next t →
    t.params = s.params ∧ t.configSpace = s.configSpace ∧ t.reqs.length = s.reqs.length

/-- R191: a quiescent state is `Unattached` or `Attached`, with the lock free and the ports released. -/
def Obligations.QuiescentStatesAreSettled : Prop :=
  ∀ s : State, Inv s → s.quiescent →
    (s.lc = .unattached ∨ s.lc = .attached) ∧ s.lockHeld = false ∧ s.portsRsvd = false

/-- R24, R89, R181, R199: another user of the port pair sets the index register to any value, but never while the ports are
reserved; it changes nothing else. -/
def Obligations.OtherUserWritesTheIndexOnlyWhenFree : Prop :=
  ∀ s : State, s.turn = .other →
    step s = .next (if s.portsRsvd then s else { s with idxReg := s.inputs.index }).draw
end

