-- ==== Sys2Proof/Laws/Decode.lean ====
section
/-!
SUPPORT. What the decoder answers, read off a word's fields, and the words of the two lifecycle commands.
-/
namespace Sys2Proof

/-- A word under the all-ones mask is itself. -/
theorem matchesRow_full {pattern w : Command} (h : matchesRow 0xFFFF#16 pattern w = true) : w = pattern := by
  have e : w &&& 0xFFFF#16 = w := BitVec.and_allOnes
  rw [matchesRow, e] at h
  exact eq_of_beq h

/-- A word that decodes to `ATTACH` is `0x8000` (R63). -/
theorem eq_of_decode_attach {w : Command} (h : decode w = .ok .attach) : w = 0x8000#16 := by
  unfold decode at h
  repeat' split at h
  all_goals first | exact matchesRow_full ‹_› | cases h

/-- A word that decodes to `DETACH` is `0x9000` (R63). -/
theorem eq_of_decode_detach {w : Command} (h : decode w = .ok .detach) : w = 0x9000#16 := by
  unfold decode at h
  repeat' split at h
  all_goals first | exact matchesRow_full ‹_› | cases h

/-- The operands a word decodes to fit their fields (R60, R61). -/
theorem fields_fit (w : Command) : lineOperandsFit (bankField w) (idxField w) = true := by
  have h1 : bankField w < 4 := (w.extractLsb' 10 2).isLt
  have h2 : idxField w < 256 := (w.extractLsb' 0 8).isLt
  simp [lineOperandsFit, h1, h2]

end Sys2Proof
end

