-- ==== Sys2Proof/Laws/Encoding.lean ====
section
/-!
SUPPORT. The small laws of the response word, of the line register byte, and of the bits a byte space stores.
-/
namespace Sys2Proof.Machine

/-! ## Response words -/

@[simp] theorem responseWord_ok : responseWord false Status.ok.code = 0x00#8 := rfl
@[simp] theorem responseWord_resourceConflict : responseWord false Status.resourceConflict.code = 0x01#8 := rfl
@[simp] theorem responseWord_mappingFailure : responseWord false Status.mappingFailure.code = 0x02#8 := rfl
@[simp] theorem responseWord_registrationFailure : responseWord false Status.registrationFailure.code = 0x03#8 := rfl
@[simp] theorem responseWord_invalidLineIndex : responseWord false Status.invalidLineIndex.code = 0x04#8 := rfl
@[simp] theorem responseWord_wrongState : responseWord false Status.wrongState.code = 0x05#8 := rfl
@[simp] theorem responseWord_invalidCommand : responseWord false Status.invalidCommand.code = 0x06#8 := rfl

/-- The response word of a command that answers no level. -/
theorem responseWord_false (code : BitVec 4) : responseWord false code = 0b0000#4 ++ code := by
  revert code; decide

/-- A response without a level and with the status of one of the kinds is legal. -/
theorem legalResponse_status (e : Status) : legalResponse (responseWord false e.code) = true := by cases e <;> rfl

/-- A response `OK` is legal with either level. -/
theorem legalResponse_level (l : Bool) : legalResponse (responseWord l Status.ok.code) = true := by cases l <;> rfl

/-! ## The line register byte -/

@[simp] theorem isInput_withDirection (b : Byte) (x : Bool) : isInput (withDirection b x) = x := by
  revert b x; decide

@[simp] theorem isInput_withOutputLevel (b : Byte) (x : Bool) : isInput (withOutputLevel b x) = isInput b := by
  revert b x; decide

@[simp] theorem isInput_withInputBit (b : Byte) (x : Bool) : isInput (withInputBit b x) = isInput b := by
  revert b x; decide

@[simp] theorem outputLevel_withInputBit (b : Byte) (x : Bool) : outputLevel (withInputBit b x) = outputLevel b := by
  revert b x; decide

@[simp] theorem lowBits_withInputBit (b : Byte) (x : Bool) : lowBits (withInputBit b x) = lowBits b := by
  revert b x; decide

@[simp] theorem inputBit_withInputBit (b : Byte) (x : Bool) : (withInputBit b x).getLsbD 7 = x := by
  revert b x; decide

/-- The bits a line register stores of a byte do not depend on its bit 7. -/
@[simp] theorem stored_withInputBit (b : Byte) (x : Bool) :
    Space.stored .window (withInputBit b x) = Space.stored .window b := by
  revert b x; decide

@[simp] theorem isInput_stored (b : Byte) : isInput (Space.stored .window b) = isInput b := by
  revert b; decide

@[simp] theorem outputLevel_stored (b : Byte) : outputLevel (Space.stored .window b) = outputLevel b := by
  revert b; decide

@[simp] theorem lowBits_stored (b : Byte) : lowBits (Space.stored .window b) = lowBits b := by
  revert b; decide

@[simp] theorem inputBit_stored (b : Byte) : (Space.stored .window b).getLsbD 7 = false := by
  revert b; decide

end Sys2Proof.Machine
end

