-- ==== Sys2Proof/Laws/Memory.lean ====
section
/-!
SUPPORT. The laws of the byte spaces: what a read answers after a write, and that a write keeps the one form.
-/
namespace Sys2Proof.Machine

@[simp] theorem Memory.find_insert_same (m : Memory) (a : Nat) (v : Byte) : (m.insert a v).find a = some v := by
  fun_induction Memory.insert m a v <;> simp_all [Memory.find]

theorem Memory.find_insert_other (m : Memory) {a b : Nat} (v : Byte) (h : b ≠ a) : (m.insert a v).find b = m.find b := by
  fun_induction Memory.insert m a v <;> simp_all [Memory.find, Ne.symm h]

@[simp] theorem Memory.find_erase_same (m : Memory) (a : Nat) : (m.erase a).find a = none := by
  fun_induction Memory.erase m a <;> simp_all [Memory.find]

theorem Memory.find_erase_other (m : Memory) {a b : Nat} (h : b ≠ a) : (m.erase a).find b = m.find b := by
  fun_induction Memory.erase m a <;> simp_all [Memory.find, Ne.symm h]

/-- A read of the address written answers the stored bits of the byte written. -/
@[simp] theorem Memory.read_write_same (sp : Space) (m : Memory) (a : Nat) (v : Byte) :
    (m.write sp a v).read sp a = sp.stored v := by
  unfold Memory.write
  split <;> simp_all [Memory.read]

/-- A write leaves every other address alone. -/
theorem Memory.read_write_other (sp : Space) (m : Memory) {a b : Nat} (v : Byte) (h : b ≠ a) :
    (m.write sp a v).read sp b = m.read sp b := by
  unfold Memory.write
  split <;> simp [Memory.read, Memory.find_insert_other _ _ h, Memory.find_erase_other _ h]

/-- The stored bits of stored bits are themselves. -/
@[simp] theorem Space.stored_stored (sp : Space) (v : Byte) : sp.stored (sp.stored v) = sp.stored v := by
  cases sp <;> simp [Space.stored, BitVec.and_assoc]

@[simp] theorem Memory.above_none (a : Nat) : Memory.above none a = true := rfl

@[simp] theorem Memory.above_some (b a : Nat) : Memory.above (some b) a = decide (b < a) := rfl

/-- Addresses above a higher bound are above a lower one. -/
theorem Memory.rising_lower {lo hi : Option Nat} {m : Memory}
    (h : ∀ a, Memory.above hi a = true → Memory.above lo a = true) (hm : m.rising hi = true) : m.rising lo = true := by
  cases m with
  | nil => rfl
  | cons c rest =>
    simp only [Memory.rising, Bool.and_eq_true] at hm ⊢
    exact ⟨h _ hm.1, hm.2⟩

/-- Erasing keeps addresses rising. -/
theorem Memory.rising_erase (m : Memory) (a : Nat) : ∀ {lo : Option Nat}, m.rising lo = true → (m.erase a).rising lo = true := by
  fun_induction Memory.erase m a with
  | case1 => simp [Memory.rising]
  | case2 w rest ih =>
    intro lo h
    simp only [Memory.rising, Bool.and_eq_true] at h
    refine ih (Memory.rising_lower (hi := some a) (fun x hx => ?_) h.2)
    cases lo with
    | none => rfl
    | some b => simp at hx h ⊢; omega
  | case3 b w rest hne ih =>
    intro lo h
    simp only [Memory.rising, Bool.and_eq_true] at h ⊢
    exact ⟨h.1, ih h.2⟩

/-- Inserting above the bound keeps addresses rising. -/
theorem Memory.rising_insert (m : Memory) (a : Nat) (v : Byte) :
    ∀ {lo : Option Nat}, Memory.above lo a = true → m.rising lo = true → (m.insert a v).rising lo = true := by
  fun_induction Memory.insert m a v with
  | case1 => intro lo ha _; simpa [Memory.rising] using ha
  | case2 b w rest hlt =>
    intro lo ha h
    simp only [Memory.rising, Bool.and_eq_true] at h ⊢
    exact ⟨ha, by simpa using hlt, h.2⟩
  | case3 w rest hlt =>
    intro lo ha h
    simp only [Memory.rising, Bool.and_eq_true] at h ⊢
    exact ⟨ha, h.2⟩
  | case4 b w rest hlt hne ih =>
    intro lo ha h
    simp only [Memory.rising, Bool.and_eq_true] at h ⊢
    exact ⟨h.1, ih (by simp; omega) h.2⟩

theorem Memory.mem_erase {m : Memory} {a : Nat} {c : Host.Cell} (h : c ∈ m.erase a) : c ∈ m := by
  fun_induction Memory.erase m a <;> simp_all
  rcases h with h | h <;> simp_all

theorem Memory.mem_insert {m : Memory} {a : Nat} {v : Byte} {c : Host.Cell} (h : c ∈ m.insert a v) : c = (a, v) ∨ c ∈ m := by
  fun_induction Memory.insert m a v <;> simp_all
  · rcases h with h | h <;> simp_all
  · rcases h with h | h
    · simp_all
    · rename_i ih
      rcases ih h with h | h <;> simp_all

/-- A write of an address that exists keeps the one form. -/
theorem Memory.write_wf {sp : Space} {m : Memory} {a : Nat} (v : Byte) (ha : sp.exists a = true) (hm : m.wf sp = true) :
    (m.write sp a v).wf sp = true := by
  simp only [Memory.wf, Bool.and_eq_true, List.all_eq_true] at hm ⊢
  unfold Memory.write
  split
  · exact ⟨Memory.rising_erase _ _ hm.1, fun c hc => hm.2 c (Memory.mem_erase hc)⟩
  · rename_i hne
    refine ⟨Memory.rising_insert _ _ _ rfl hm.1, fun c hc => ?_⟩
    rcases Memory.mem_insert hc with rfl | hc
    · simp [ha, hne]
    · exact hm.2 c hc

end Sys2Proof.Machine
end

