-- ==== Sys2Proof/Laws/State.lean ====
section
/-!
SUPPORT. One lemma per field per update of `State`, so that no proof unfolds a record update: `State.record`, `State.modReq`,
`State.setPhase`, `asked`, `told`, and for `State.draw` the fields it leaves alone.
-/
namespace Sys2Proof.Machine

variable (s : State) (e : Event) (r : Nat) (f : Requester → Requester) (p : Phase) (q : EnvRequest)

@[simp] theorem State.record_lc : (s.record e).lc = s.lc := rfl
@[simp] theorem State.record_lstep : (s.record e).lstep = s.lstep := rfl
@[simp] theorem State.record_lcmd : (s.record e).lcmd = s.lcmd := rfl
@[simp] theorem State.record_lrsp : (s.record e).lrsp = s.lrsp := rfl
@[simp] theorem State.record_errk : (s.record e).errk = s.errk := rfl
@[simp] theorem State.record_acc : (s.record e).acc = s.acc := rfl
@[simp] theorem State.record_dba : (s.record e).dba = s.dba := rfl
@[simp] theorem State.record_portsRsvd : (s.record e).portsRsvd = s.portsRsvd := rfl
@[simp] theorem State.record_regionRsvd : (s.record e).regionRsvd = s.regionRsvd := rfl
@[simp] theorem State.record_mapped : (s.record e).mapped = s.mapped := rfl
@[simp] theorem State.record_bankEn : (s.record e).bankEn = s.bankEn := rfl
@[simp] theorem State.record_lockHeld : (s.record e).lockHeld = s.lockHeld := rfl
@[simp] theorem State.record_lockOwner : (s.record e).lockOwner = s.lockOwner := rfl
@[simp] theorem State.record_reqs : (s.record e).reqs = s.reqs := rfl
@[simp] theorem State.record_idxReg : (s.record e).idxReg = s.idxReg := rfl
@[simp] theorem State.record_configSpace : (s.record e).configSpace = s.configSpace := rfl
@[simp] theorem State.record_window : (s.record e).window = s.window := rfl
@[simp] theorem State.record_params : (s.record e).params = s.params := rfl
@[simp] theorem State.record_history : (s.record e).history = e :: s.history := rfl
@[simp] theorem State.record_turn : (s.record e).turn = s.turn := rfl
@[simp] theorem State.record_inputs : (s.record e).inputs = s.inputs := rfl
@[simp] theorem State.record_script : (s.record e).script = s.script := rfl
@[simp] theorem State.record_drawn : (s.record e).drawn = s.drawn := rfl

@[simp] theorem State.modReq_lc : (s.modReq r f).lc = s.lc := rfl
@[simp] theorem State.modReq_lstep : (s.modReq r f).lstep = s.lstep := rfl
@[simp] theorem State.modReq_lcmd : (s.modReq r f).lcmd = s.lcmd := rfl
@[simp] theorem State.modReq_lrsp : (s.modReq r f).lrsp = s.lrsp := rfl
@[simp] theorem State.modReq_errk : (s.modReq r f).errk = s.errk := rfl
@[simp] theorem State.modReq_acc : (s.modReq r f).acc = s.acc := rfl
@[simp] theorem State.modReq_dba : (s.modReq r f).dba = s.dba := rfl
@[simp] theorem State.modReq_portsRsvd : (s.modReq r f).portsRsvd = s.portsRsvd := rfl
@[simp] theorem State.modReq_regionRsvd : (s.modReq r f).regionRsvd = s.regionRsvd := rfl
@[simp] theorem State.modReq_mapped : (s.modReq r f).mapped = s.mapped := rfl
@[simp] theorem State.modReq_bankEn : (s.modReq r f).bankEn = s.bankEn := rfl
@[simp] theorem State.modReq_lockHeld : (s.modReq r f).lockHeld = s.lockHeld := rfl
@[simp] theorem State.modReq_lockOwner : (s.modReq r f).lockOwner = s.lockOwner := rfl
@[simp] theorem State.modReq_reqs : (s.modReq r f).reqs = s.reqs.modify r f := rfl
@[simp] theorem State.modReq_idxReg : (s.modReq r f).idxReg = s.idxReg := rfl
@[simp] theorem State.modReq_configSpace : (s.modReq r f).configSpace = s.configSpace := rfl
@[simp] theorem State.modReq_window : (s.modReq r f).window = s.window := rfl
@[simp] theorem State.modReq_params : (s.modReq r f).params = s.params := rfl
@[simp] theorem State.modReq_history : (s.modReq r f).history = s.history := rfl
@[simp] theorem State.modReq_turn : (s.modReq r f).turn = s.turn := rfl
@[simp] theorem State.modReq_inputs : (s.modReq r f).inputs = s.inputs := rfl
@[simp] theorem State.modReq_script : (s.modReq r f).script = s.script := rfl
@[simp] theorem State.modReq_drawn : (s.modReq r f).drawn = s.drawn := rfl

@[simp] theorem State.setPhase_lc : (s.setPhase r p).lc = s.lc := rfl
@[simp] theorem State.setPhase_lstep : (s.setPhase r p).lstep = s.lstep := rfl
@[simp] theorem State.setPhase_lcmd : (s.setPhase r p).lcmd = s.lcmd := rfl
@[simp] theorem State.setPhase_lrsp : (s.setPhase r p).lrsp = s.lrsp := rfl
@[simp] theorem State.setPhase_errk : (s.setPhase r p).errk = s.errk := rfl
@[simp] theorem State.setPhase_acc : (s.setPhase r p).acc = s.acc := rfl
@[simp] theorem State.setPhase_dba : (s.setPhase r p).dba = s.dba := rfl
@[simp] theorem State.setPhase_portsRsvd : (s.setPhase r p).portsRsvd = s.portsRsvd := rfl
@[simp] theorem State.setPhase_regionRsvd : (s.setPhase r p).regionRsvd = s.regionRsvd := rfl
@[simp] theorem State.setPhase_mapped : (s.setPhase r p).mapped = s.mapped := rfl
@[simp] theorem State.setPhase_bankEn : (s.setPhase r p).bankEn = s.bankEn := rfl
@[simp] theorem State.setPhase_lockHeld : (s.setPhase r p).lockHeld = s.lockHeld := rfl
@[simp] theorem State.setPhase_lockOwner : (s.setPhase r p).lockOwner = s.lockOwner := rfl
@[simp] theorem State.setPhase_reqs : (s.setPhase r p).reqs = s.reqs.modify r fun q => { q with phase := p } := rfl
@[simp] theorem State.setPhase_idxReg : (s.setPhase r p).idxReg = s.idxReg := rfl
@[simp] theorem State.setPhase_configSpace : (s.setPhase r p).configSpace = s.configSpace := rfl
@[simp] theorem State.setPhase_window : (s.setPhase r p).window = s.window := rfl
@[simp] theorem State.setPhase_params : (s.setPhase r p).params = s.params := rfl
@[simp] theorem State.setPhase_history : (s.setPhase r p).history = s.history := rfl
@[simp] theorem State.setPhase_turn : (s.setPhase r p).turn = s.turn := rfl
@[simp] theorem State.setPhase_inputs : (s.setPhase r p).inputs = s.inputs := rfl
@[simp] theorem State.setPhase_script : (s.setPhase r p).script = s.script := rfl
@[simp] theorem State.setPhase_drawn : (s.setPhase r p).drawn = s.drawn := rfl

@[simp] theorem asked_lc : (asked q s).lc = s.lc := rfl
@[simp] theorem asked_lstep : (asked q s).lstep = s.lstep := rfl
@[simp] theorem asked_lcmd : (asked q s).lcmd = s.lcmd := rfl
@[simp] theorem asked_lrsp : (asked q s).lrsp = s.lrsp := rfl
@[simp] theorem asked_errk : (asked q s).errk = s.errk := rfl
@[simp] theorem asked_acc : (asked q s).acc = s.acc := rfl
@[simp] theorem asked_dba : (asked q s).dba = s.dba := rfl
@[simp] theorem asked_portsRsvd : (asked q s).portsRsvd = s.portsRsvd := rfl
@[simp] theorem asked_regionRsvd : (asked q s).regionRsvd = s.regionRsvd := rfl
@[simp] theorem asked_mapped : (asked q s).mapped = s.mapped := rfl
@[simp] theorem asked_bankEn : (asked q s).bankEn = s.bankEn := rfl
@[simp] theorem asked_lockHeld : (asked q s).lockHeld = s.lockHeld := rfl
@[simp] theorem asked_lockOwner : (asked q s).lockOwner = s.lockOwner := rfl
@[simp] theorem asked_reqs : (asked q s).reqs = s.reqs := rfl
@[simp] theorem asked_idxReg : (asked q s).idxReg = s.idxReg := rfl
@[simp] theorem asked_configSpace : (asked q s).configSpace = s.configSpace := rfl
@[simp] theorem asked_window : (asked q s).window = s.window := rfl
@[simp] theorem asked_params : (asked q s).params = s.params := rfl
@[simp] theorem asked_history : (asked q s).history = .env q (some s.inputs.answer) :: s.history := rfl
@[simp] theorem asked_turn : (asked q s).turn = s.turn := rfl
@[simp] theorem asked_inputs : (asked q s).inputs = s.inputs := rfl
@[simp] theorem asked_script : (asked q s).script = s.script := rfl
@[simp] theorem asked_drawn : (asked q s).drawn = s.drawn := rfl

@[simp] theorem told_lc : (told q s).lc = s.lc := rfl
@[simp] theorem told_lstep : (told q s).lstep = s.lstep := rfl
@[simp] theorem told_lcmd : (told q s).lcmd = s.lcmd := rfl
@[simp] theorem told_lrsp : (told q s).lrsp = s.lrsp := rfl
@[simp] theorem told_errk : (told q s).errk = s.errk := rfl
@[simp] theorem told_acc : (told q s).acc = s.acc := rfl
@[simp] theorem told_dba : (told q s).dba = s.dba := rfl
@[simp] theorem told_portsRsvd : (told q s).portsRsvd = s.portsRsvd := rfl
@[simp] theorem told_regionRsvd : (told q s).regionRsvd = s.regionRsvd := rfl
@[simp] theorem told_mapped : (told q s).mapped = s.mapped := rfl
@[simp] theorem told_bankEn : (told q s).bankEn = s.bankEn := rfl
@[simp] theorem told_lockHeld : (told q s).lockHeld = s.lockHeld := rfl
@[simp] theorem told_lockOwner : (told q s).lockOwner = s.lockOwner := rfl
@[simp] theorem told_reqs : (told q s).reqs = s.reqs := rfl
@[simp] theorem told_idxReg : (told q s).idxReg = s.idxReg := rfl
@[simp] theorem told_configSpace : (told q s).configSpace = s.configSpace := rfl
@[simp] theorem told_window : (told q s).window = s.window := rfl
@[simp] theorem told_params : (told q s).params = s.params := rfl
@[simp] theorem told_history : (told q s).history = .env q none :: s.history := rfl
@[simp] theorem told_turn : (told q s).turn = s.turn := rfl
@[simp] theorem told_inputs : (told q s).inputs = s.inputs := rfl
@[simp] theorem told_script : (told q s).script = s.script := rfl
@[simp] theorem told_drawn : (told q s).drawn = s.drawn := rfl

@[simp] theorem State.draw_lc : s.draw.lc = s.lc := by unfold State.draw; split <;> rfl
@[simp] theorem State.draw_lstep : s.draw.lstep = s.lstep := by unfold State.draw; split <;> rfl
@[simp] theorem State.draw_lcmd : s.draw.lcmd = s.lcmd := by unfold State.draw; split <;> rfl
@[simp] theorem State.draw_lrsp : s.draw.lrsp = s.lrsp := by unfold State.draw; split <;> rfl
@[simp] theorem State.draw_errk : s.draw.errk = s.errk := by unfold State.draw; split <;> rfl
@[simp] theorem State.draw_acc : s.draw.acc = s.acc := by unfold State.draw; split <;> rfl
@[simp] theorem State.draw_dba : s.draw.dba = s.dba := by unfold State.draw; split <;> rfl
@[simp] theorem State.draw_portsRsvd : s.draw.portsRsvd = s.portsRsvd := by unfold State.draw; split <;> rfl
@[simp] theorem State.draw_regionRsvd : s.draw.regionRsvd = s.regionRsvd := by unfold State.draw; split <;> rfl
@[simp] theorem State.draw_mapped : s.draw.mapped = s.mapped := by unfold State.draw; split <;> rfl
@[simp] theorem State.draw_bankEn : s.draw.bankEn = s.bankEn := by unfold State.draw; split <;> rfl
@[simp] theorem State.draw_lockHeld : s.draw.lockHeld = s.lockHeld := by unfold State.draw; split <;> rfl
@[simp] theorem State.draw_lockOwner : s.draw.lockOwner = s.lockOwner := by unfold State.draw; split <;> rfl
@[simp] theorem State.draw_reqs : s.draw.reqs = s.reqs := by unfold State.draw; split <;> rfl
@[simp] theorem State.draw_idxReg : s.draw.idxReg = s.idxReg := by unfold State.draw; split <;> rfl
@[simp] theorem State.draw_configSpace : s.draw.configSpace = s.configSpace := by unfold State.draw; split <;> rfl
@[simp] theorem State.draw_window : s.draw.window = s.window := by unfold State.draw; split <;> rfl
@[simp] theorem State.draw_params : s.draw.params = s.params := by unfold State.draw; split <;> rfl
@[simp] theorem State.draw_history : s.draw.history = s.history := by unfold State.draw; split <;> rfl

end Sys2Proof.Machine
end

