-- ==== Sys2Proof/Laws/Ops.lean ====
section
/-!
SUPPORT. What each shared operation does, said once: its next state, or the states it can answer. Later proofs cite these and
do not unfold the operations.
-/
namespace Sys2Proof.Machine

/-! ## Requester ports -/

/-- Changing port `r` answers what was there, changed. -/
@[simp] theorem modReq_reqs_self (s : State) (r : Nat) (f : Requester → Requester) :
    (s.modReq r f).reqs[r]? = s.reqs[r]?.map f := by simp

/-- Changing port `r` leaves every other port alone. -/
theorem modReq_reqs_other (s : State) {r r' : Nat} (f : Requester → Requester) (h : r' ≠ r) :
    (s.modReq r f).reqs[r']? = s.reqs[r']? := by
  simp [Ne.symm h]

/-- What a port is after a change of port `r`: the changed one, or another's, as it was. -/
theorem modify_getElem? {l : List Requester} {r r' : Nat} {f : Requester → Requester} {q : Requester}
    (h : (l.modify r f)[r']? = some q) :
    (r' = r ∧ ∃ p, l[r]? = some p ∧ q = f p) ∨ (r' ≠ r ∧ l[r']? = some q) := by
  by_cases hr : r' = r
  · subst hr
    rw [List.getElem?_modify_eq] at h
    cases hl : l[r']? with
    | none => simp [hl] at h
    | some p => left; exact ⟨rfl, p, rfl, by simpa [hl] using h.symm⟩
  · right
    exact ⟨hr, by simpa [List.getElem?_modify, Ne.symm hr] using h⟩

/-- Changing a port that is known is setting it. -/
theorem modify_eq_set_of_getElem? {l : List Requester} {r : Nat} {q : Requester} (f : Requester → Requester)
    (h : l[r]? = some q) : l.modify r f = l.set r (f q) := by
  rw [List.modify_eq_set_getElem?, h]; rfl

/-- Changing a port that was just set is setting it to the changed value. -/
theorem set_modify_self (l : List Requester) (r : Nat) (q : Requester) (f : Requester → Requester) :
    (l.set r q).modify r f = l.set r (f q) := by
  by_cases h : r < l.length
  · rw [modify_eq_set_of_getElem? f (q := q) (by simp [h]), List.set_set]
  · rw [List.set_eq_of_length_le (by omega), List.set_eq_of_length_le (by omega)]
    exact List.modify_eq_self (by omega)

/-- A word presented on a requester port. -/
theorem respond_requester (r : Nat) (w : Byte) (s : State) :
    respond (.requester r) w s =
      { s with reqs := s.reqs.modify r (fun q => { q with rsp := w, phase := .resp }),
               history := .response (.requester r) w :: s.history } := rfl

/-- A word presented on the lifecycle port. -/
theorem respond_lifecycle (w : Byte) (s : State) :
    respond .lifecycle w s =
      { s with lrsp := w, lstep := .resp, history := .response .lifecycle w :: s.history } := rfl

/-! ## The window -/

/-- An address resolves to an offset exactly when the window is mapped and a line register stands at that offset. -/
theorem lineAt_eq_some {s : State} {a : Addr} {o : Nat} :
    lineAt s a = some o ↔ s.mapped = true ∧ hasLine o = true ∧ o = (a - windowBase s.dba).toNat := by
  unfold lineAt
  constructor
  · intro h
    simp only [Option.ite_none_right_eq_some, Bool.and_eq_true, Option.some.injEq] at h
    exact ⟨h.1.1, h.2 ▸ h.1.2, h.2.symm⟩
  · rintro ⟨hm, hl, rfl⟩
    rw [if_pos (by rw [hm, hl]; rfl)]

/-- A line in range has an offset that holds a line register (R111). -/
theorem hasLine_of_inRange {b i : Nat} (h : inRange b i = true) : hasLine (lineOffset b i) = true := by
  match b with
  | 0 => simp [inRange, bankCount, hasLine, lineOffset, bankBase] at h ⊢; omega
  | 1 => simp [inRange, bankCount, hasLine, lineOffset, bankBase] at h ⊢; omega
  | 2 => simp [inRange, bankCount, hasLine, lineOffset, bankBase] at h ⊢; omega
  | n + 3 => simp [inRange, bankCount] at h

/-- An offset that holds a line register is at most 228 (R110). -/
theorem le_of_hasLine {o : Nat} (h : hasLine o = true) : o ≤ 228 := by
  simp [hasLine] at h; omega

/-- The address of a line in range resolves to the line's offset while the window is mapped (R110). -/
theorem lineAt_lineAddr {s : State} {b i : Nat} (hm : s.mapped = true) (h : inRange b i = true) :
    lineAt s (lineAddr s b i) = some (lineOffset b i) := by
  have hl := hasLine_of_inRange h
  have := le_of_hasLine hl
  rw [lineAt_eq_some]
  refine ⟨hm, hl, ?_⟩
  rw [lineAddr, BitVec.add_comm, BitVec.add_sub_cancel, BitVec.toNat_ofNat]
  omega

/-- The direction of a byte read is the register's. -/
@[simp] theorem isInput_readLine (s : State) (o : Nat) : isInput (s.readLine o) = isInput (s.line o) := by
  simp [State.readLine]

/-- A window read that answers: the address resolves, and the rest of the step runs on the byte and the recorded state. -/
theorem memRead_eq_next {r : Nat} {a : Addr} {s t : State} {k : Byte → State → Result} (h : memRead r a s k = .next t) :
    ∃ o, lineAt s a = some o ∧ k (s.readLine o) (s.record (.memRead r a (s.readLine o))) = .next t := by
  unfold memRead at h
  split at h
  · cases h
  · exact ⟨_, ‹_›, h⟩

/-- A window read at an address that resolves. -/
theorem memRead_of_lineAt {r : Nat} {a : Addr} {s : State} {k : Byte → State → Result} {o : Nat} (h : lineAt s a = some o) :
    memRead r a s k = k (s.readLine o) (s.record (.memRead r a (s.readLine o))) := by
  unfold memRead; simp [h]

/-- A window write that answers: the address resolves, and the register there is written. -/
theorem memWrite_eq_next {r : Nat} {a : Addr} {v : Byte} {s t : State} (h : memWrite r a v s = .next t) :
    ∃ o, lineAt s a = some o ∧
      t = { s with window := s.window.write .window o v, history := .memWrite r a v :: s.history } := by
  unfold memWrite at h
  split at h
  · cases h
  · exact ⟨_, ‹_›, by cases h; rfl⟩

/-- A window write at an address that resolves. -/
theorem memWrite_of_lineAt {r : Nat} {a : Addr} {v : Byte} {s : State} {o : Nat} (h : lineAt s a = some o) :
    memWrite r a v s =
      .next { s with window := s.window.write .window o v, history := .memWrite r a v :: s.history } := by
  unfold memWrite; simp [h, State.record]

/-! ## The port pair -/

/-- An index write that answers: the ports are reserved. -/
theorem writeIndex_eq_next {v : Byte} {go : LStep} {s t : State} (h : writeIndex v go s = .next t) :
    s.portsRsvd = true ∧
      t = { s with idxReg := v, lstep := go, history := .ioWrite s.params.indexPort v :: s.history } := by
  unfold writeIndex at h
  split at h
  · exact ⟨‹_›, by cases h; rfl⟩
  · cases h

/-- A data read that answers: the ports are reserved, and the byte is accumulated. -/
theorem readData_eq_next {go : LStep} {s t : State} (h : readData go s = .next t) :
    s.portsRsvd = true ∧
      t = { s with acc := accumulate s.acc (s.configSpace.read .config s.idxReg.toNat), lstep := go,
                   history := .ioRead (dataPort s.params) (s.configSpace.read .config s.idxReg.toNat) :: s.history } := by
  unfold readData at h
  simp only at h
  split at h
  · exact ⟨‹_›, by cases h; rfl⟩
  · cases h

/-! ## Whose step it is -/

/-- A line command's step that answers: a requester's sequencer, or the refusal of the word on the lifecycle port. -/
theorem onRequester_eq_next {s t : State} {k : Nat → Requester → Result} (h : onRequester s k = .next t) :
    (∃ r q, s.turn = .requester r ∧ s.reqs[r]? = some q ∧ k r q = .next t) ∨
      (s.turn = .lifecycle ∧ s.lstep = .dec ∧ t = raise .lifecycle .invalidCommand s) := by
  unfold onRequester at h
  split at h
  · split at h
    · exact .inl ⟨_, _, ‹_›, ‹_›, h⟩
    · cases h
  · split at h
    · exact .inr ⟨‹_›, ‹_›, by cases h; rfl⟩
    · cases h
  · cases h

/-- A line command at a requester port. -/
theorem onRequester_of_turn {s : State} {r : Nat} {q : Requester} {k : Nat → Requester → Result}
    (ht : s.turn = .requester r) (hq : s.reqs[r]? = some q) : onRequester s k = k r q := by
  unfold onRequester; simp [ht, hq]

/-- A lifecycle command's step that answers: the lifecycle sequencer, or the refusal of the word on a requester port. -/
theorem onLifecycle_eq_next {s t : State} {k : Result} (h : onLifecycle s k = .next t) :
    (s.turn = .lifecycle ∧ k = .next t) ∨
      (∃ r q, s.turn = .requester r ∧ s.reqs[r]? = some q ∧ q.phase = .dec ∧
        t = raise (.requester r) .invalidCommand s) := by
  unfold onLifecycle at h
  split at h
  · split at h
    · split at h
      · exact .inr ⟨_, _, ‹_›, ‹_›, ‹_›, by cases h; rfl⟩
      · cases h
    · cases h
  · exact .inl ⟨‹_›, h⟩
  · cases h

/-- A lifecycle command at the lifecycle port. -/
theorem onLifecycle_of_turn {s : State} {k : Result} (ht : s.turn = .lifecycle) : onLifecycle s k = k := by
  unfold onLifecycle; simp [ht]

/-- The answer to a reserved word: the port is in its decode step and refuses it. -/
theorem answerReserved_eq_next {s t : State} (h : answerReserved s = .next t) :
    (∃ r q, s.turn = .requester r ∧ s.reqs[r]? = some q ∧ q.phase = .dec ∧
        t = raise (.requester r) .invalidCommand s) ∨
      (s.turn = .lifecycle ∧ s.lstep = .dec ∧ t = raise .lifecycle .invalidCommand s) := by
  unfold answerReserved at h
  split at h
  · split at h
    · split at h
      · exact .inl ⟨_, _, ‹_›, ‹_›, ‹_›, by cases h; rfl⟩
      · cases h
    · cases h
  · split at h
    · exact .inr ⟨‹_›, ‹_›, by cases h; rfl⟩
    · cases h
  · cases h

/-! ## The steps of a requester -/

/-- The decode step of a line command: refused, or past the gate. -/
theorem lineGate_cases (r b i : Nat) (go : Phase) (s : State) :
    (s.lc ≠ .attached ∧ lineGate r b i go s = raise (.requester r) .wrongState s) ∨
      (s.lc = .attached ∧ inRange b i = false ∧ lineGate r b i go s = raise (.requester r) .invalidLineIndex s) ∨
      (s.lc = .attached ∧ inRange b i = true ∧ lineGate r b i go s = s.setPhase r go) := by
  unfold lineGate
  by_cases h : s.lc = .attached <;> cases hr : inRange b i <;> simp [h]

/-- The acquire step: it holds, or takes a free lock. -/
theorem acquireLock_cases (r : Nat) (s : State) :
    (s.lockHeld = true ∧ acquireLock r s = s) ∨
      (s.lockHeld = false ∧ acquireLock r s =
        { s with lockHeld := true, lockOwner := r,
                 reqs := s.reqs.modify r (fun q => { q with phase := .rdl }), history := .lockAcquire r :: s.history }) := by
  unfold acquireLock
  cases h : s.lockHeld
  · exact .inr ⟨rfl, rfl⟩
  · exact .inl ⟨rfl, rfl⟩

/-- The release step. -/
theorem releaseLock_eq (r : Nat) (s : State) :
    releaseLock r s =
      { s with lockHeld := false,
               reqs := s.reqs.modify r (fun q => { q with rsp := 0#8, phase := .resp }),
               history := .response (.requester r) 0#8 :: .lockRelease r :: s.history } := rfl

/-- The unlocked read step, when it answers. -/
theorem readUnlocked_eq_next {r b i : Nat} {s t : State} (h : readUnlocked r b i s = .next t) :
    ∃ o, lineAt s (lineAddr s b i) = some o ∧
      t = respond (.requester r) (responseWord (readLevel (s.readLine o)) Status.ok.code)
        ((s.record (.memRead r (lineAddr s b i) (s.readLine o))).modReq r fun q => { q with reg := s.readLine o }) := by
  obtain ⟨o, ho, h⟩ := memRead_eq_next h
  exact ⟨o, ho, by cases h; rfl⟩

/-- The locked read step, when it answers. -/
theorem readLocked_eq_next {r b i : Nat} {go : Byte → Phase} {s t : State} (h : readLocked r b i go s = .next t) :
    ∃ o, lineAt s (lineAddr s b i) = some o ∧
      t = { s with reqs := s.reqs.modify r (fun q => { q with reg := s.readLine o, phase := go (s.readLine o) }),
                   history := .memRead r (lineAddr s b i) (s.readLine o) :: s.history } := by
  obtain ⟨o, ho, h⟩ := memRead_eq_next h
  exact ⟨o, ho, by cases h; rfl⟩

/-- A write step, when it answers. -/
theorem writeBack_eq_next {r b i : Nat} {v : Byte} {go : Phase} {s t : State} (h : writeBack r b i v go s = .next t) :
    ∃ o, lineAt s (lineAddr s b i) = some o ∧
      t = { s with reqs := s.reqs.modify r (fun q => { q with reg := v, phase := go }),
                   window := s.window.write .window o v,
                   history := .memWrite r (lineAddr s b i) v :: s.history } := by
  obtain ⟨o, ho, h⟩ := memWrite_eq_next h
  exact ⟨o, ho, h⟩

/-! ## The lifecycle handshakes -/

/-- The drain step: it holds while a requester is busy. -/
theorem drain_cases (s : State) :
    ((∃ (r : Nat) (q : Requester), s.reqs[r]? = some q ∧ q.phase.busy = true) ∧ drain s = s) ∨
      ((∀ (r : Nat) (q : Requester), s.reqs[r]? = some q → q.phase.busy = false) ∧ drain s = { s with lstep := .unreg2 }) := by
  unfold drain
  split
  · rename_i h
    obtain ⟨q, hq, hb⟩ := List.any_eq_true.mp h
    obtain ⟨r, hr⟩ := List.mem_iff_getElem?.mp hq
    exact .inl ⟨⟨r, q, hr, hb⟩, rfl⟩
  · rename_i h
    refine .inr ⟨fun r q hq => ?_, rfl⟩
    simp only [List.any_eq_true, not_exists, not_and, Bool.not_eq_true] at h
    exact h q (List.mem_of_getElem? hq)

/-- The low eight bits of every base are zero (R90). -/
theorem baseOf_aligned (form : BaseForm) (v : BitVec 24) : (baseOf form v).extractLsb' 0 8 = 0#8 := by
  cases form with
  | mask =>
    ext k hk
    have : k = 0 ∨ k = 1 ∨ k = 2 ∨ k = 3 ∨ k = 4 ∨ k = 5 ∨ k = 6 ∨ k = 7 := by omega
    simp only [baseOf]
    rcases this with rfl | rfl | rfl | rfl | rfl | rfl | rfl | rfl <;> simp
  | shift =>
    ext k hk
    simp [baseOf]
    omega
  | other =>
    ext k hk
    simp only [baseOf, BitVec.getElem_extractLsb', Nat.zero_add, BitVec.getElem_zero]
    rw [BitVec.getLsbD_append]
    simp [hk]

/-- Three accumulations from a cleared accumulator give the three bytes, the first the most significant (R84). -/
theorem accumulate_three (a b c : Byte) : accumulate (accumulate (accumulate 0#24 a) b) c = a ++ b ++ c := by
  apply BitVec.eq_of_toNat_eq
  have ha := a.isLt
  have hb := b.isLt
  have hc := c.isLt
  simp only [BitVec.toNat_append, ← Nat.shiftLeft_add_eq_or_of_lt hb, ← Nat.shiftLeft_add_eq_or_of_lt hc]
  simp only [accumulate, BitVec.toNat_add, BitVec.toNat_shiftLeft, BitVec.toNat_setWidth, Nat.shiftLeft_eq]
  norm_num [Nat.shiftLeft_eq] at ha hb hc ⊢
  omega

/-! ## The outside's choice -/

/-- A step that answers drew a choice after a state. -/
theorem thenDraw_eq_next {o : Result} {t : State} (h : thenDraw o = .next t) : ∃ u, o = .next u ∧ t = u.draw := by
  cases o with
  | next u => exact ⟨u, rfl, by cases h; rfl⟩
  | fault f => cases h
  | refused e => cases h

end Sys2Proof.Machine
end

