-- ==== Sys2Proof/Laws/Discovery.lean ====
section
/-!
SUPPORT. The base read lane by lane: what `ACC` holds after each lane.
-/
namespace Sys2Proof.Machine

/-- Accumulating the byte of the next lane gives the value of one lane more (R84). -/
theorem accumulate_readLanes {order : LaneOrder} {space : Memory} {register : Byte} {n : Nat} (h : n < 3) :
    accumulate (readLanes order space register n) (laneByte order space register (n + 1)) =
      readLanes order space register (n + 1) := by
  have first : ∀ a : Byte, accumulate 0#24 a = 0#16 ++ a := by decide
  have second : ∀ a b : Byte, accumulate (0#16 ++ a) b = 0#8 ++ a ++ b := by
    intro a b
    rw [← first a]
    apply BitVec.eq_of_toNat_eq
    have ha := a.isLt
    have hb := b.isLt
    simp only [BitVec.toNat_append, ← Nat.shiftLeft_add_eq_or_of_lt ha, ← Nat.shiftLeft_add_eq_or_of_lt hb]
    simp only [accumulate, BitVec.toNat_add, BitVec.toNat_shiftLeft, BitVec.toNat_setWidth, Nat.shiftLeft_eq]
    norm_num [Nat.shiftLeft_eq] at ha hb ⊢
    omega
  match n, h with
  | 0, _ => exact first _
  | 1, _ => exact second _ _
  | 2, _ =>
    show accumulate (0#8 ++ _ ++ _) _ = _
    rw [← second, ← first]
    exact accumulate_three _ _ _

/-- The address of a lane is never that of lane 0 (R85). -/
theorem laneAddress_ne_register {order : LaneOrder} {k : Nat} (h : k = 1 ∨ k = 2 ∨ k = 3) :
    laneAddress order regOffset k ≠ 0x24#8 := by
  rcases h with rfl | rfl | rfl <;> cases order <;> decide

/-- The phase of a data step names its lane, and that lane is one past those already read (R143). -/
theorem lanesDone_of_dataLane {l : LStep} {k : Nat} (h : l.dataLane = some k) :
    ∃ n, k = n + 1 ∧ n < 3 ∧ l.lanesDone = some n := by
  cases l <;> simp [LStep.dataLane] at h <;> subst h <;> exact ⟨_, rfl, by decide, rfl⟩

end Sys2Proof.Machine
end

