-- ==== Sys2Proof/Laws/PerInstr.lean ====
section
/-!
SUPPORT. The family `EncodedRow`: the word of every well-formed command stands in the command's own row of the opcode map
(spec/30_encoding.md R63) and carries the command's operands in the fields of R60. One lemma for each command.
-/
namespace Sys2Proof.Laws

/-- The mask and the pattern of a command's row (R63). -/
def opcodeRow : Instr → Command × Command
  | .get _ _ => (0xF300#16, 0x1000#16)
  | .set _ _ _ => (0xF200#16, 0x2000#16)
  | .dirOut _ _ => (0xF300#16, 0x3000#16)
  | .dirIn _ _ => (0xF300#16, 0x3100#16)
  | .attach => (0xFFFF#16, 0x8000#16)
  | .detach => (0xFFFF#16, 0x9000#16)

/-- The operands the fields `BANK`, `IDX` and `V` of a command's word hold (R60, R72); `V` is 1 in `DIR_IN` (R118). -/
def carriedOperands : Instr → Nat × Nat × Bool
  | .get b i => (b, i, false)
  | .set b i v => (b, i, v)
  | .dirOut b i => (b, i, false)
  | .dirIn b i => (b, i, true)
  | .attach => (0, 0, false)
  | .detach => (0, 0, false)

/-- The word of a well-formed command matches its row and carries its operands. -/
def EncodedRow.Statement (i : Instr) : Prop :=
  i.wellFormed = true →
    matchesRow (opcodeRow i).1 (opcodeRow i).2 (encode i) = true ∧
      (bankField (encode i), idxField (encode i), vField (encode i)) = carriedOperands i

/-- The statement as a check of one word. -/
def inRow (i : Instr) : Bool :=
  matchesRow (opcodeRow i).1 (opcodeRow i).2 (encode i) &&
    (bankField (encode i), idxField (encode i), vField (encode i)) == carriedOperands i

/-- A command whose word passes the check meets the statement. -/
theorem EncodedRow.of_inRow {i : Instr} (h : i.wellFormed = true → inRow i = true) : EncodedRow.Statement i := by
  intro hw
  simpa [inRow] using h hw

/-- A check of every bank and index holds of every well-formed pair of operands. -/
theorem of_operands {f : Nat → Nat → Instr} (hf : ∀ b i, (f b i).wellFormed = lineOperandsFit b i)
    (h : ∀ (b : Fin 4) (i : Fin 256), inRow (f b i) = true) (b i : Nat) : EncodedRow.Statement (f b i) := by
  refine EncodedRow.of_inRow fun hw => ?_
  rw [hf] at hw
  simp only [lineOperandsFit, Bool.and_eq_true, decide_eq_true_eq] at hw
  exact h ⟨b, hw.1⟩ ⟨i, hw.2⟩

theorem EncodedRow.get (b i : Nat) : EncodedRow.Statement (.get b i) :=
  of_operands (f := .get) (fun _ _ => rfl) (by decide +kernel) b i

theorem EncodedRow.set (b i : Nat) (v : Bool) : EncodedRow.Statement (.set b i v) := by
  cases v
  · exact of_operands (f := fun b i => .set b i false) (fun _ _ => rfl) (by decide +kernel) b i
  · exact of_operands (f := fun b i => .set b i true) (fun _ _ => rfl) (by decide +kernel) b i

theorem EncodedRow.dirOut (b i : Nat) : EncodedRow.Statement (.dirOut b i) :=
  of_operands (f := .dirOut) (fun _ _ => rfl) (by decide +kernel) b i

theorem EncodedRow.dirIn (b i : Nat) : EncodedRow.Statement (.dirIn b i) :=
  of_operands (f := .dirIn) (fun _ _ => rfl) (by decide +kernel) b i

theorem EncodedRow.attach : EncodedRow.Statement .attach := EncodedRow.of_inRow fun _ => by decide

theorem EncodedRow.detach : EncodedRow.Statement .detach := EncodedRow.of_inRow fun _ => by decide

end Sys2Proof.Laws
end

