-- ==== Sys2Proof/Laws/Step.lean ====
section
/-!
SUPPORT. What one step of the machine can do, said once.
-/
namespace Sys2Proof.Machine

/-- A step that answers ran a command, answered a reserved word, or ran no command; then the outside chose the next step. -/
theorem step_eq_next {s t : State} (h : step s = .next t) :
    (∃ w i u, fetch s = some w ∧ decode w = .ok i ∧ exec i s = .next u ∧ t = u.draw) ∨
      (∃ w e u, fetch s = some w ∧ decode w = .error e ∧ answerReserved s = .next u ∧ t = u.draw) ∨
      (fetch s = none ∧ t = (outsideStep s).draw) := by
  unfold step at h
  split at h
  · split at h
    · obtain ⟨u, hu, rfl⟩ := thenDraw_eq_next h
      exact .inl ⟨_, _, u, ‹_›, ‹_›, hu, rfl⟩
    · obtain ⟨u, hu, rfl⟩ := thenDraw_eq_next h
      exact .inr (.inl ⟨_, _, u, ‹_›, ‹_›, hu, rfl⟩)
  · exact .inr (.inr ⟨‹_›, by cases h; rfl⟩)

/-- A fetched word is the latch of the port whose turn it is. -/
theorem fetch_eq_some {s : State} {w : Command} (h : fetch s = some w) :
    (∃ r q, s.turn = .requester r ∧ s.reqs[r]? = some q ∧ q.phase ≠ .idle ∧ q.phase ≠ .resp ∧ q.cmd = w) ∨
      (s.turn = .lifecycle ∧ s.lstep ≠ .idle ∧ s.lstep ≠ .resp ∧ s.lcmd = w) := by
  unfold fetch at h
  split at h
  · split at h
    · rename_i r ht _ q hq
      simp only [Option.ite_none_left_eq_some, not_or, Option.some.injEq] at h
      exact .inl ⟨r, q, ht, hq, h.1.1, h.1.2, h.2⟩
    · cases h
  · rename_i ht
    simp only [Option.ite_none_left_eq_some, not_or, Option.some.injEq] at h
    exact .inr ⟨ht, h.1.1, h.1.2, h.2⟩
  · cases h

/-- A step that runs no command: nothing, a word latched on an idle port, a response taken, or an index written by another
user of the port pair. -/
theorem outsideStep_cases (s : State) :
    outsideStep s = s ∨
      (∃ r q w, s.turn = .requester r ∧ s.reqs[r]? = some q ∧ q.phase = .idle ∧ s.inputs.word = some w ∧
        outsideStep s = issue (.requester r) w s) ∨
      (∃ r q, s.turn = .requester r ∧ s.reqs[r]? = some q ∧ q.phase = .resp ∧
        outsideStep s = takeResponse (.requester r) s) ∨
      (∃ w, s.turn = .lifecycle ∧ s.lstep = .idle ∧ s.inputs.word = some w ∧ outsideStep s = issue .lifecycle w s) ∨
      (s.turn = .lifecycle ∧ s.lstep = .resp ∧ outsideStep s = takeResponse .lifecycle s) ∨
      (s.turn = .other ∧ s.portsRsvd = false ∧ outsideStep s = { s with idxReg := s.inputs.index }) := by
  cases ht : s.turn with
  | requester r =>
    cases hq : s.reqs[r]? with
    | none => left; simp [outsideStep, ht, hq]
    | some q =>
      cases hp : q.phase with
      | idle =>
        cases hw : s.inputs.word with
        | none => left; simp [outsideStep, ht, hq, hp, issueIfPresented, hw]
        | some w => right; left; exact ⟨r, q, w, rfl, hq, hp, rfl, by simp [outsideStep, ht, hq, hp, issueIfPresented, hw]⟩
      | resp =>
        cases hw : s.inputs.taken with
        | false => left; simp [outsideStep, ht, hq, hp, takeIfTaken, hw]
        | true => right; right; left; exact ⟨r, q, rfl, hq, hp, by simp [outsideStep, ht, hq, hp, takeIfTaken, hw]⟩
      | _ => left; simp [outsideStep, ht, hq, hp]
  | lifecycle =>
    by_cases hi : s.lstep = .idle
    · cases hw : s.inputs.word with
      | none => left; simp [outsideStep, ht, hi, issueIfPresented, hw]
      | some w => right; right; right; left; exact ⟨w, rfl, hi, rfl, by simp [outsideStep, ht, hi, issueIfPresented, hw]⟩
    · by_cases hr : s.lstep = .resp
      · cases hw : s.inputs.taken with
        | false => left; simp [outsideStep, ht, hr, takeIfTaken, hw]
        | true => right; right; right; right; left; exact ⟨rfl, hr, by simp [outsideStep, ht, hr, takeIfTaken, hw]⟩
      · left; simp [outsideStep, ht, hi, hr]
  | other =>
    cases hp : s.portsRsvd with
    | true => left; simp [outsideStep, ht, otherUser, hp]
    | false => right; right; right; right; right; exact ⟨rfl, rfl, by simp [outsideStep, ht, otherUser, hp]⟩

end Sys2Proof.Machine
end

