-- ==== Sys2Proof/Laws/Runs.lean ====
section
/-!
SUPPORT. Endless runs: when an agent has an enabled step, and what one position of a run says of the next.
-/
namespace Sys2Proof.Machine

/-- When a requester has an enabled step (R20, R116, R182). -/
theorem enabled_requester {s : State} {r : Nat} {q : Requester} (hq : s.reqs[r]? = some q) :
    s.enabled (.requester r) = true ↔
      q.phase ≠ .idle ∧ q.phase ≠ .resp ∧ (q.phase = .acq → s.lockHeld = false) := by
  simp only [State.enabled, hq]
  cases q.phase <;> simp

/-- A requester port that does not exist has no step. -/
theorem enabled_requester_none {s : State} {r : Nat} (hq : s.reqs[r]? = none) : s.enabled (.requester r) = false := by
  simp [State.enabled, hq]

/-- When the lifecycle sequencer has an enabled step (R23, R152, R182). -/
theorem enabled_lifecycle (s : State) :
    s.enabled .lifecycle = true ↔
      s.lstep ≠ .idle ∧ s.lstep ≠ .resp ∧
        (s.lstep = .dwait → ∀ (r : Nat) (q : Requester), s.reqs[r]? = some q → q.phase.busy = false) := by
  have drained : (!s.reqs.any fun q => q.phase.busy) = true ↔
      ∀ (r : Nat) (q : Requester), s.reqs[r]? = some q → q.phase.busy = false := by
    simp only [Bool.not_eq_true', List.any_eq_false, Bool.not_eq_true]
    exact ⟨fun h r q hq => h q (List.mem_of_getElem? hq),
      fun h q hq => let ⟨r, hr⟩ := List.mem_iff_getElem?.mp hq; h r q hr⟩
  simp only [State.enabled]
  cases s.lstep <;> simp [← drained]

/-- An agent with an enabled step is a requester port that exists, or the lifecycle port. -/
theorem enabled_cases {s : State} {a : Turn} (h : s.enabled a = true) :
    (∃ r q, a = .requester r ∧ s.reqs[r]? = some q) ∨ a = .lifecycle := by
  cases a with
  | requester r =>
    cases hq : s.reqs[r]? with
    | some q => exact .inl ⟨r, q, rfl, hq⟩
    | none => rw [enabled_requester_none hq] at h; cases h
  | lifecycle => exact .inr rfl
  | other => cases h

/-- The next state of a run has the ports, the phase and the lifecycle state that its step gave. -/
theorem isRun_next {run : Nat → State} (h : IsRun run) (k : Nat) :
    ∃ t, step (run k) = .next t ∧ (run (k + 1)).reqs = t.reqs ∧ (run (k + 1)).lstep = t.lstep ∧
      (run (k + 1)).lc = t.lc ∧ (run (k + 1)).lockHeld = t.lockHeld := by
  obtain ⟨t, ht, e⟩ := h k
  exact ⟨t, ht, by rw [e], by rw [e], by rw [e], by rw [e]⟩

end Sys2Proof.Machine
end

