-- ==== Sys2Proof/Tests/Slice0.lean ====
section
/-!
SUPPORT. The model's own tests. Expected values are the spec's worked examples and vectors (spec/95_test_vectors.md), cited at
each test. Then one witness for each statement of Certificates/Slice0/Obligations.lean that has hypotheses: a concrete state
and operands that meet them together, for each clause that has its own.
-/
namespace Sys2Proof.Tests
open Sys2Proof Sys2Proof.Machine

/-! ## WellFormed: an ill-formed term for each check -/

theorem test_wellFormed_refuses_get_bank_4 : (Instr.get 4 0).wellFormed = false := by decide
theorem test_wellFormed_refuses_get_index_256 : (Instr.get 0 256).wellFormed = false := by decide
theorem test_wellFormed_refuses_set_bank_4 : (Instr.set 4 0 true).wellFormed = false := by decide
theorem test_wellFormed_refuses_set_index_256 : (Instr.set 0 256 true).wellFormed = false := by decide
theorem test_wellFormed_refuses_dirOut_bank_4 : (Instr.dirOut 4 0).wellFormed = false := by decide
theorem test_wellFormed_refuses_dirOut_index_256 : (Instr.dirOut 0 256).wellFormed = false := by decide
theorem test_wellFormed_refuses_dirIn_bank_4 : (Instr.dirIn 4 0).wellFormed = false := by decide
theorem test_wellFormed_refuses_dirIn_index_256 : (Instr.dirIn 0 256).wellFormed = false := by decide
theorem test_wellFormed_accepts_the_last_of_each_field : (Instr.set 3 255 true).wellFormed = true := by decide

/-! ## Decoding: words written out from R63, `OP BANK Z V IDX` (vectors T2, and T2.16 for the lifecycle words) -/

theorem test_decode_get : decode 0b0001010000010110#16 = .ok (.get 1 22) := by decide
theorem test_decode_get_bank_3 : decode 0b0001110000000000#16 = .ok (.get 3 0) := by decide
theorem test_decode_set_1 : decode 0b0010010100000000#16 = .ok (.set 1 0 true) := by decide
theorem test_decode_set_0 : decode 0b0010010000000000#16 = .ok (.set 1 0 false) := by decide
theorem test_decode_dirOut : decode 0b0011100001000100#16 = .ok (.dirOut 2 68) := by decide
theorem test_decode_dirIn : decode 0b0011000101000011#16 = .ok (.dirIn 0 67) := by decide
theorem test_decode_attach : decode 0b1000000000000000#16 = .ok .attach := by decide
theorem test_decode_detach : decode 0b1001000000000000#16 = .ok .detach := by decide
theorem test_decode_reserved_get_v : decode 0x1516#16 = .error .vBit := by decide
theorem test_decode_reserved_z : decode 0x1616#16 = .error .zBit ∧ decode 0x2700#16 = .error .zBit ∧
    decode 0x3200#16 = .error .zBit := by decide
theorem test_decode_reserved_opcode : decode 0x0000#16 = .error .opcode ∧ decode 0xFFFF#16 = .error .opcode := by decide
theorem test_decode_reserved_lifecycle : decode 0x8001#16 = .error .lifecycleOperand ∧
    decode 0x9100#16 = .error .lifecycleOperand := by decide
theorem test_decodeTableWord : decodeTableWord 16 0x1416 = some (.get 1 22) ∧ decodeTableWord 16 0x1516 = none ∧
    decodeTableWord 8 0x14 = none := by decide
theorem test_setDir_words : encode (setDir 0 67 true) = 0x3143#16 ∧ encode (setDir 2 68 false) = 0x3844#16 := by decide
theorem test_assemblyText : assemblyText (.set 1 0 true) = "SET 1, 0, 1" ∧ assemblyText .detach = "DETACH" := by decide

/-! ## The register byte (table T1), addressing (T4) and discovery (T3) -/

theorem test_registerByte_input : isInput 0xA5#8 = true ∧ readLevel 0xA5#8 = true ∧ readLevel 0x60#8 = false ∧
    withDirection 0xA5#8 false = 0x85#8 ∧ withOutputLevel 0x20#8 true = 0x60#8 := by decide
theorem test_registerByte_output : isInput 0x5A#8 = false ∧ readLevel 0x5A#8 = true ∧ readLevel 0x9F#8 = false ∧
    withDirection 0x5A#8 true = 0x7A#8 ∧ withOutputLevel 0xDF#8 false = 0x9F#8 := by decide
theorem test_lineOffset : lineOffset 1 0 = 128 ∧ lineOffset 1 22 = 150 ∧ lineOffset 2 68 = 228 ∧
    inRange 1 22 = true ∧ inRange 1 23 = false ∧ inRange 2 69 = false ∧ inRange 3 0 = false := by decide
theorem test_globalLine : globalLine 150 = some (1, 22) ∧ globalLine 68 = none ∧ globalLine 229 = none := by decide
theorem test_baseOf : baseOf .mask 0xFED801#24 = 0x00FED800#32 ∧ baseOf .shift 0xFED800#24 = 0xFED80000#32 ∧
    windowBase (baseOf .shift 0xFFFFFF#24) = 0x00000000#32 ∧ windowBase (baseOf .mask 0xFFFFFF#24) = 0x01000000#32 := by decide

/-! ## Small states -/

/-- Free inputs: the pad high, bit 7 of an output line 1, every request granted. -/
def high : Inputs := { word := none, taken := true, padIn := true, outputBit7 := true, answer := .ok, index := 0x5A#8 }

/-- Free inputs with a refusal for the handshake of the step. -/
def refusing (k : FailKind) : Inputs := { high with answer := .fail k }

/-- Idle and unattached, two requesters, the configuration bytes of the vectors, and the outside's next choices known. -/
def unattached : State :=
  { State.reset with
    reqs := [Requester.reset, Requester.reset], idxReg := 0x00#8,
    configSpace := [(0x25, 0x12#8), (0x26, 0x34#8), (0x27, 0x56#8)],
    params := { indexPort := 0x0100#16, laneOrder := .ascending, baseForm := .mask },
    turn := .other, inputs := high, script := [{ turn := .other, inputs := high }], drawn := 0 }

/-- Attached at the base of the vectors (`WBASE = 0x00123500`), every port idle. -/
def attached : State :=
  { unattached with
    lc := .attached, dba := 0x00123400#32, regionRsvd := true, mapped := true,
    bankEn := { b0 := true, b1 := true, b2 := true } }

/-- Attached; requester 0 has a command in a phase and the turn, with a latched byte; one line register is listed. -/
def running (w : Command) (p : Phase) (reg : Byte) (o : Nat) (stored : Byte) : State :=
  { attached with
    reqs := [{ phase := p, cmd := w, reg := reg, rsp := 0 }, Requester.reset], window := [(o, stored)], turn := .requester 0,
    lockHeld := p.holdsLock }

/-- The lifecycle sequencer in a phase, with the turn. -/
def sequencing (s : State) (lc : LcState) (l : LStep) (w : Command) : State :=
  { s with lc := lc, lstep := l, lcmd := w, turn := .lifecycle }

/-- The same with the step's handshake refused. -/
def refused (s : State) (lc : LcState) (l : LStep) (k : FailKind) : State :=
  { sequencing s lc l 0x8000#16 with inputs := refusing k }

/-- The state a step answers, if it answers one. -/
def nextOf : Result → Option State
  | .next s => some s
  | .fault _ => none
  | .refused _ => none

/-- What the step answered on requester port 0, and the events it recorded, latest first. -/
def port0 (o : Result) : Option (Option Requester × List Event) := (nextOf o).map fun s => (s.reqs[0]?, s.history)

/-- Where the step left the lifecycle port, what it presents there, and the events it recorded, latest first. -/
def lifecyclePort (o : Result) : Option (LcState × LStep × Byte × List Event) :=
  (nextOf o).map fun s => (s.lc, s.lstep, s.lrsp, s.history)

/-! ## One step of each command -/

/-- T6.1: `LR[150]` an input, pad high: byte `0xA0`, response `0x80`. -/
theorem test_get_answers_pad : port0 (exec (.get 1 22) (running 0x1416#16 .rdu 0 150 0x20#8)) =
    some (some { phase := .resp, cmd := 0x1416#16, reg := 0xA0#8, rsp := 0x80#8 },
      [.response (.requester 0) 0x80#8, .memRead 0 0x00123596#32 0xA0#8]) := by decide

/-- T6.5: `LR[5]` an output at 0: bit 7 is ignored, response `0x00`. -/
theorem test_get_ignores_bit7_of_output : port0 (exec (.get 0 5) (running 0x1005#16 .rdu 0 5 0x03#8)) =
    some (some { phase := .resp, cmd := 0x1005#16, reg := 0x83#8, rsp := 0x00#8 },
      [.response (.requester 0) 0x00#8, .memRead 0 0x00123505#32 0x83#8]) := by decide

/-- T8.1, first write: the byte read `0xA0` is written as `0x80`. -/
theorem test_set_first_write : port0 (exec (.set 1 0 true) (running 0x2500#16 .w1 0xA0#8 128 0x20#8)) =
    some (some { phase := .w2, cmd := 0x2500#16, reg := 0x80#8, rsp := 0 }, [.memWrite 0 0x00123580#32 0x80#8]) := by decide

/-- T8.5, the one write of an output line: `0xDF` is written as `0x9F`. -/
theorem test_set_second_write : port0 (exec (.set 0 5 false) (running 0x2005#16 .w2 0xDF#8 5 0x5F#8)) =
    some (some { phase := .rel, cmd := 0x2005#16, reg := 0x9F#8, rsp := 0 }, [.memWrite 0 0x00123505#32 0x9F#8]) := by decide

/-- T7.1: the byte read `0xC3` is written as `0xE3`. -/
theorem test_dirIn_write : port0 (exec (.dirIn 0 67) (running 0x3143#16 .w1 0xC3#8 67 0x43#8)) =
    some (some { phase := .rel, cmd := 0x3143#16, reg := 0xE3#8, rsp := 0 }, [.memWrite 0 0x00123543#32 0xE3#8]) := by decide

/-- T7.2: an input line is read and not written. -/
theorem test_dirIn_no_write : port0 (exec (.dirIn 0 67) (running 0x3143#16 .rdl 0 67 0x63#8)) =
    some (some { phase := .rel, cmd := 0x3143#16, reg := 0xE3#8, rsp := 0 }, [.memRead 0 0x00123543#32 0xE3#8]) := by decide

/-- T7.3: the byte read `0xA0` is written as `0x80`. -/
theorem test_dirOut_write : port0 (exec (.dirOut 2 68) (running 0x3844#16 .w1 0xA0#8 228 0x20#8)) =
    some (some { phase := .rel, cmd := 0x3844#16, reg := 0x80#8, rsp := 0 }, [.memWrite 0 0x001235E4#32 0x80#8]) := by decide

/-- T7.4: an output line is read and not written. -/
theorem test_dirOut_no_write : port0 (exec (.dirOut 2 68) (running 0x3844#16 .rdl 0 228 0x40#8)) =
    some (some { phase := .rel, cmd := 0x3844#16, reg := 0xC0#8, rsp := 0 }, [.memRead 0 0x001235E4#32 0xC0#8]) := by decide

/-- T9.1: a refused port reservation ends the `ATTACH` with `0x01` in `Unattached`. -/
theorem test_attach_ports_refused :
    lifecyclePort (exec .attach (refused unattached .discovering .pres .registrationFailure)) =
    some (.unattached, .resp, 0x01#8, [.response .lifecycle 0x01#8,
      .env .reservePorts (some (.fail .registrationFailure))]) := by decide

/-- T9.8: the last bank registered, `Attached` and response `0x00`. -/
theorem test_attach_last_bank : lifecyclePort (exec .attach (sequencing attached .banksRegistering .reg2 0x8000#16)) =
    some (.attached, .resp, 0x00#8, [.response .lifecycle 0x00#8, .env (.register 2 160 69) (some .ok)]) := by decide

/-- T9.10: a `DETACH` from reset is answered `0x05`. -/
theorem test_detach_refused_unattached : lifecyclePort (exec .detach (sequencing unattached .unattached .dec 0x9000#16)) =
    some (.unattached, .resp, 0x05#8, [.response .lifecycle 0x05#8]) := by decide

/-- T9.12: a refused unregistration is ignored. -/
theorem test_detach_ignores_refusal :
    lifecyclePort (exec .detach
      { sequencing attached .detaching .unreg1 0x9000#16 with inputs := refusing .registrationFailure }) =
    some (.detaching, .unreg0, 0x00#8, [.env (.unregister 1) (some (.fail .registrationFailure))]) := by decide

/-! ## The steps around a command -/

/-- T5.1 to T5.5 and T5.8: the first check that fails gives the answer. -/
theorem test_decode_step_priority :
    port0 (step { running 0x1417#16 .dec 0 5 0 with lc := .unattached }) =
      some (some { phase := .resp, cmd := 0x1417#16, reg := 0, rsp := 0x05#8 }, [.response (.requester 0) 0x05#8]) ∧
    port0 (step { running 0x1516#16 .dec 0 5 0 with lc := .unattached }) =
      some (some { phase := .resp, cmd := 0x1516#16, reg := 0, rsp := 0x06#8 }, [.response (.requester 0) 0x06#8]) ∧
    port0 (step (running 0x1417#16 .dec 0 5 0)) =
      some (some { phase := .resp, cmd := 0x1417#16, reg := 0, rsp := 0x04#8 }, [.response (.requester 0) 0x04#8]) ∧
    port0 (step (running 0x8000#16 .dec 0 5 0)) =
      some (some { phase := .resp, cmd := 0x8000#16, reg := 0, rsp := 0x06#8 }, [.response (.requester 0) 0x06#8]) := by decide

/-- R43, R80: the data port answers the byte at the index last written; T3.1: the second lane. -/
theorem test_lane_two : ((nextOf (exec .attach { sequencing unattached .discovering .dat2 0x8000#16 with
    portsRsvd := true, idxReg := 0x26#8, acc := 0x000012#24 })).map fun s => (s.acc, s.lstep)) =
    some (0x001234#24, .idx3) := by decide

/-- A command placed in the reset state is the one the first step runs: a line command and a lifecycle command. -/
theorem test_first_step_from_reset :
    ((nextOf (step (State.reset.withFetchWord 16 0x1416))).map fun s => s.history) =
      some [.response (.requester 0) 0x05#8] ∧
    ((nextOf (step (State.reset.withFetchWord 16 0x8000))).map fun s => (s.lc, s.lstep)) =
      some (.discovering, .pres) := by decide

/-! ## Witnesses: bytes, words, addressing -/

theorem witness_EncodingChangesOneBit : 7 < 8 := by decide

/-- The first and the last line of the window. -/
theorem witness_LineReadAnswersStoredBitsAndPad : LineUsable attached 0 0 ∧ LineUsable attached 2 68 :=
  ⟨⟨rfl, rfl⟩, ⟨rfl, rfl⟩⟩

theorem witness_LineWriteStoresAllButBitSeven : LineUsable attached 0 67 ∧ LineUsable attached 1 22 :=
  ⟨⟨rfl, rfl⟩, ⟨rfl, rfl⟩⟩

theorem witness_DecodeOfEncodeIsTheCommand : (Instr.get 0 0).wellFormed = true ∧ (Instr.set 3 255 true).wellFormed = true := by
  decide

theorem witness_DecodedWordEncodesBack : decode 0x2DFF#16 = .ok (.set 3 255 true) := by decide

theorem witness_LinesHaveDistinctAddressesInTheWindow : inRange 0 67 = true ∧ inRange 1 0 = true := by decide

/-! ## Witnesses: steps -/

theorem witness_StepRunsTheLatchedCommand :
    fetch (running 0x1416#16 .rdu 0 150 0x20#8) = some 0x1416#16 ∧ decode 0x1416#16 = .ok (.get 1 22) ∧
      ∃ t, exec (.get 1 22) (running 0x1416#16 .rdu 0 150 0x20#8) = .next t :=
  ⟨rfl, by decide, _, rfl⟩

theorem witness_PlacedCommandRunsNext :
    (Instr.get 0 0).wellFormed = true ∧ (Instr.get 0 0).portClass = .requester ∧
      Instr.attach.wellFormed = true ∧ Instr.attach.portClass = .lifecycle := by decide

theorem witness_IssueLatchesThePresentedWord :
    (RequesterAt { running 0 .idle 0 0 0 with inputs := { high with word := some 0x1416#16 } } 0
      { phase := .idle, cmd := 0, reg := 0, rsp := 0 } .idle) ∧
    ({ running 0 .idle 0 0 0 with inputs := { high with word := some 0x1416#16 } } : State).inputs.word = some 0x1416#16 ∧
    LifecycleAt { sequencing unattached .unattached .idle 0 with inputs := { high with word := some 0x8000#16 } } .idle ∧
    ({ sequencing unattached .unattached .idle 0 with inputs := { high with word := some 0x8000#16 } } : State).inputs.word =
      some 0x8000#16 :=
  ⟨⟨rfl, rfl, rfl⟩, rfl, ⟨rfl, rfl⟩, rfl⟩

/-- The response of each class of port, taken by the outside. -/
theorem witness_ResponseTakenFreesThePort :
    RequesterAt (running 0 .resp 0 0 0) 0 { phase := .resp, cmd := 0, reg := 0, rsp := 0 } .resp ∧
    LifecycleAt (sequencing attached .attached .resp 0x8000#16) .resp ∧ high.taken = true :=
  ⟨⟨rfl, rfl, rfl⟩, ⟨rfl, rfl⟩, rfl⟩

/-- A reserved word and a command of the other class, on each class of port. -/
theorem witness_ReservedWordAnswersInvalidCommand :
    RequesterAt (running 0xFFFF#16 .dec 0 0 0) 0 { phase := .dec, cmd := 0xFFFF#16, reg := 0, rsp := 0 } .dec ∧
    decode 0xFFFF#16 = .error .opcode ∧
    LifecycleAt (sequencing unattached .unattached .dec 0x8001#16) .dec ∧ decode 0x8001#16 = .error .lifecycleOperand ∧
    LifecycleAt (sequencing attached .attached .dec 0x1416#16) .dec ∧ (Instr.get 1 22).portClass = .requester ∧
    RequesterAt (running 0x8000#16 .dec 0 0 0) 0 { phase := .dec, cmd := 0x8000#16, reg := 0, rsp := 0 } .dec ∧
    Instr.attach.portClass = .lifecycle :=
  ⟨⟨rfl, rfl, rfl⟩, by decide, ⟨rfl, rfl⟩, by decide, ⟨rfl, rfl⟩, rfl, ⟨rfl, rfl, rfl⟩, rfl⟩

/-! ## Witnesses: the gate -/

theorem witness_GateRefusesOutsideAttached :
    RequesterAt { running 0x1417#16 .dec 0 0 0 with lc := .detaching } 0
      { phase := .dec, cmd := 0x1417#16, reg := 0, rsp := 0 } .dec ∧
    (Instr.get 1 23).portClass = .requester ∧ ({ running 0x1417#16 .dec 0 0 0 with lc := .detaching } : State).lc ≠ .attached :=
  ⟨⟨rfl, rfl, rfl⟩, rfl, by decide⟩

/-- The first index past each bank, and the empty bank. -/
theorem witness_GateRefusesLineOutOfRange :
    RequesterAt (running 0x1417#16 .dec 0 0 0) 0 { phase := .dec, cmd := 0x1417#16, reg := 0, rsp := 0 } .dec ∧
    lineOf (.get 1 23) = some (1, 23) ∧ lineOf (.set 3 0 true) = some (3, 0) ∧ (running 0x1417#16 .dec 0 0 0).lc = .attached ∧
    (if (1 : Nat) = 0 then 68 else if (1 : Nat) = 1 then 23 else if (1 : Nat) = 2 then 69 else 0) ≤ 23 ∧
    (if (3 : Nat) = 0 then 68 else if (3 : Nat) = 1 then 23 else if (3 : Nat) = 2 then 69 else 0) ≤ 0 :=
  ⟨⟨rfl, rfl, rfl⟩, rfl, rfl, rfl, by decide, by decide⟩

/-- The last index of a bank. -/
theorem witness_GatePassesLineInRange :
    RequesterAt (running 0x1844#16 .dec 0 0 0) 0 { phase := .dec, cmd := 0x1844#16, reg := 0, rsp := 0 } .dec ∧
    lineOf (.get 2 68) = some (2, 68) ∧ (running 0x1844#16 .dec 0 0 0).lc = .attached ∧
    68 < (if (2 : Nat) = 0 then 68 else if (2 : Nat) = 1 then 23 else if (2 : Nat) = 2 then 69 else 0) :=
  ⟨⟨rfl, rfl, rfl⟩, rfl, rfl, by decide⟩

/-! ## Witnesses: the steps of a line command -/

theorem witness_GetAnswersTheLevel :
    RequesterAt (running 0x1416#16 .rdu 0 150 0x20#8) 0 { phase := .rdu, cmd := 0x1416#16, reg := 0, rsp := 0 } .rdu ∧
    LineUsable (running 0x1416#16 .rdu 0 150 0x20#8) 1 22 :=
  ⟨⟨rfl, rfl, rfl⟩, rfl, rfl⟩

theorem witness_AcquireTakesFreeLockOrHolds :
    RequesterAt (running 0x2500#16 .acq 0 128 0) 0 { phase := .acq, cmd := 0x2500#16, reg := 0, rsp := 0 } .acq ∧
    takesLock (.set 1 0 true) = true ∧ (running 0x2500#16 .acq 0 128 0).lockHeld = false :=
  ⟨⟨rfl, rfl, rfl⟩, rfl, rfl⟩

theorem witness_LockedReadDecidesTheWrites :
    RequesterAt (running 0x2500#16 .rdl 0 128 0x20#8) 0 { phase := .rdl, cmd := 0x2500#16, reg := 0, rsp := 0 } .rdl ∧
    LineUsable (running 0x2500#16 .rdl 0 128 0x20#8) 1 0 :=
  ⟨⟨rfl, rfl, rfl⟩, rfl, rfl⟩

theorem witness_DirectionWriteStep :
    RequesterAt (running 0x3143#16 .w1 0xC3#8 67 0x43#8) 0 { phase := .w1, cmd := 0x3143#16, reg := 0xC3#8, rsp := 0 } .w1 ∧
    LineUsable (running 0x3143#16 .w1 0xC3#8 67 0x43#8) 0 67 :=
  ⟨⟨rfl, rfl, rfl⟩, rfl, rfl⟩

theorem witness_SetWriteSteps :
    LineUsable (running 0x2500#16 .w1 0xA0#8 128 0x20#8) 1 0 ∧ LineUsable (running 0x2500#16 .w2 0x80#8 128 0) 1 0 ∧
    RequesterAt (running 0x2500#16 .w1 0xA0#8 128 0x20#8) 0 { phase := .w1, cmd := 0x2500#16, reg := 0xA0#8, rsp := 0 } .w1 ∧
    RequesterAt (running 0x2500#16 .w2 0x80#8 128 0) 0 { phase := .w2, cmd := 0x2500#16, reg := 0x80#8, rsp := 0 } .w2 :=
  ⟨⟨rfl, rfl⟩, ⟨rfl, rfl⟩, ⟨rfl, rfl, rfl⟩, ⟨rfl, rfl, rfl⟩⟩

theorem witness_ReleaseAnswersOk :
    RequesterAt (running 0x2500#16 .rel 0xC0#8 128 0x40#8) 0 { phase := .rel, cmd := 0x2500#16, reg := 0xC0#8, rsp := 0 } .rel ∧
    takesLock (.set 1 0 true) = true :=
  ⟨⟨rfl, rfl, rfl⟩, rfl⟩

/-! ## Witnesses: whole line commands -/

theorem witness_DirInWritesOnlyAnOutputLine :
    RequesterAt (running 0x3143#16 .dec 0 67 0x43#8) 0 { phase := .dec, cmd := 0x3143#16, reg := 0, rsp := 0 } .dec ∧
    (running 0x3143#16 .dec 0 67 0x43#8).lc = .attached ∧ (running 0x3143#16 .dec 0 67 0x43#8).lockHeld = false ∧
    LineUsable (running 0x3143#16 .dec 0 67 0x43#8) 0 67 ∧
    isInput ((running 0x3143#16 .dec 0 67 0x43#8).line 67) = false ∧
    isInput ((running 0x3143#16 .dec 0 67 0x63#8).line 67) = true :=
  ⟨⟨rfl, rfl, rfl⟩, rfl, rfl, ⟨rfl, rfl⟩, by decide, by decide⟩

theorem witness_DirOutDrivesTheStoredLevel :
    RequesterAt (running 0x3844#16 .dec 0 228 0x20#8) 0 { phase := .dec, cmd := 0x3844#16, reg := 0, rsp := 0 } .dec ∧
    (running 0x3844#16 .dec 0 228 0x20#8).lc = .attached ∧ (running 0x3844#16 .dec 0 228 0x20#8).lockHeld = false ∧
    LineUsable (running 0x3844#16 .dec 0 228 0x20#8) 2 68 ∧
    isInput ((running 0x3844#16 .dec 0 228 0x20#8).line 228) = true ∧
    isInput ((running 0x3844#16 .dec 0 228 0x40#8).line 228) = false :=
  ⟨⟨rfl, rfl, rfl⟩, rfl, rfl, ⟨rfl, rfl⟩, by decide, by decide⟩

theorem witness_SetOnInputLineWritesTwice :
    RequesterAt (running 0x2500#16 .dec 0 128 0x20#8) 0 { phase := .dec, cmd := 0x2500#16, reg := 0, rsp := 0 } .dec ∧
    (running 0x2500#16 .dec 0 128 0x20#8).lc = .attached ∧ (running 0x2500#16 .dec 0 128 0x20#8).lockHeld = false ∧
    LineUsable (running 0x2500#16 .dec 0 128 0x20#8) 1 0 ∧
    isInput ((running 0x2500#16 .dec 0 128 0x20#8).line (lineOffset 1 0)) = true :=
  ⟨⟨rfl, rfl, rfl⟩, rfl, rfl, ⟨rfl, rfl⟩, by decide⟩

theorem witness_SetOnOutputLineWritesOnce :
    RequesterAt (running 0x2105#16 .dec 0 5 0x40#8) 0 { phase := .dec, cmd := 0x2105#16, reg := 0, rsp := 0 } .dec ∧
    (running 0x2105#16 .dec 0 5 0x40#8).lc = .attached ∧ (running 0x2105#16 .dec 0 5 0x40#8).lockHeld = false ∧
    LineUsable (running 0x2105#16 .dec 0 5 0x40#8) 0 5 ∧
    isInput ((running 0x2105#16 .dec 0 5 0x40#8).line (lineOffset 0 5)) = false :=
  ⟨⟨rfl, rfl, rfl⟩, rfl, rfl, ⟨rfl, rfl⟩, by decide⟩

/-- P4: `SET 1, 0, 1` by requester 0 before its first write, `GET 1, 0` by requester 1 before its read. -/
def racing : State :=
  { running 0x2500#16 .w1 0xA0#8 128 0x20#8 with
    reqs := [{ phase := .w1, cmd := 0x2500#16, reg := 0xA0#8, rsp := 0 },
      { phase := .rdu, cmd := 0x1400#16, reg := 0, rsp := 0 }] }

theorem witness_GetNextToSetSeesThreeLevels :
    RequesterAt racing 0 { phase := .w1, cmd := 0x2500#16, reg := 0xA0#8, rsp := 0 } .w1 ∧ (1 : Nat) ≠ 0 ∧
    racing.reqs[1]? = some { phase := .rdu, cmd := 0x1400#16, reg := 0, rsp := 0 } ∧ LineUsable racing 1 0 ∧
    isInput (racing.line (lineOffset 1 0)) = true ∧ Space.stored .window 0xA0#8 = racing.line (lineOffset 1 0) :=
  ⟨⟨rfl, rfl, rfl⟩, by decide, rfl, ⟨rfl, rfl⟩, by decide, by decide⟩

/-- A step that writes its line, and one of a command that takes no lock. -/
theorem witness_LineCommandFrame :
    racing.turn = .requester 0 ∧ lineOf (.set 1 0 true) = some (1, 0) ∧ (∃ t, exec (.set 1 0 true) racing = .next t) ∧
    takesLock (.get 1 0) = false ∧ ∃ t, exec (.get 1 0) { racing with turn := .requester 1 } = .next t :=
  ⟨rfl, rfl, ⟨_, rfl⟩, rfl, _, rfl⟩

theorem witness_LinesDoNotInterfere :
    racing.turn = .requester 0 ∧ racing.reqs[0]? = some { phase := .w1, cmd := 0x2500#16, reg := 0xA0#8, rsp := 0 } ∧
    decode 0x2500#16 = .ok (.set 1 0 true) ∧ lineOf (.set 1 0 true) = some (1, 0) ∧ inRange 1 0 = true ∧
    (∃ t, step racing = .next t) ∧ (150 : Nat) ≠ lineOffset 1 0 :=
  ⟨rfl, rfl, by decide, rfl, rfl, ⟨_, rfl⟩, by decide⟩

/-! ## Witnesses: the lifecycle commands -/

theorem witness_LifecycleDecodeSteps : LifecycleAt (sequencing unattached .unattached .dec 0x8000#16) .dec := ⟨rfl, rfl⟩

theorem witness_PortReservationStep :
    LifecycleAt (sequencing unattached .discovering .pres 0x8000#16) .pres ∧
    (sequencing unattached .discovering .pres 0x8000#16).inputs.answer = .ok ∧
    LifecycleAt (refused unattached .discovering .pres .resourceConflict) .pres ∧
    (refused unattached .discovering .pres .resourceConflict).inputs.answer = .fail .resourceConflict :=
  ⟨⟨rfl, rfl⟩, rfl, ⟨rfl, rfl⟩, rfl⟩

theorem witness_BaseReadAssemblesThreeLanes :
    LifecycleAt { sequencing unattached .discovering .idx1 0x8000#16 with portsRsvd := true } .idx1 ∧ unattached.acc = 0#24 :=
  ⟨⟨rfl, rfl⟩, rfl⟩

theorem witness_SourcesDiscoveryExample :
    unattached.configSpace.read .config 0x25 = 0x12#8 ∧ unattached.configSpace.read .config 0x26 = 0x34#8 ∧
    unattached.configSpace.read .config 0x27 = 0x56#8 := by decide

theorem witness_WindowIsAlignedAndDoesNotWrap : 255 < 256 := by decide

theorem witness_WindowAcquisitionSteps :
    LifecycleAt (sequencing unattached .discovering .prel 0x8000#16) .prel ∧
    (LifecycleAt (sequencing unattached .windowAcquired .rres 0x8000#16) .rres ∧
      (sequencing unattached .windowAcquired .rres 0x8000#16).inputs.answer = .ok) ∧
    (LifecycleAt (refused unattached .windowAcquired .rres .resourceConflict) .rres ∧
      (refused unattached .windowAcquired .rres .resourceConflict).inputs.answer = .fail .resourceConflict) ∧
    (LifecycleAt (sequencing unattached .windowAcquired .map 0x8000#16) .map ∧
      (sequencing unattached .windowAcquired .map 0x8000#16).inputs.answer = .ok) ∧
    (LifecycleAt (refused unattached .windowAcquired .map .mappingFailure) .map ∧
      (refused unattached .windowAcquired .map .mappingFailure).inputs.answer = .fail .mappingFailure) ∧
    LifecycleAt (sequencing unattached .windowAcquired .mfrel 0x8000#16) .mfrel :=
  ⟨⟨rfl, rfl⟩, ⟨⟨rfl, rfl⟩, rfl⟩, ⟨⟨rfl, rfl⟩, rfl⟩, ⟨⟨rfl, rfl⟩, rfl⟩, ⟨⟨rfl, rfl⟩, rfl⟩, rfl, rfl⟩

theorem witness_BankRegistrationSteps :
    LifecycleAt (sequencing attached .banksRegistering .reg0 0x8000#16) .reg0 ∧
    LifecycleAt (sequencing attached .banksRegistering .reg1 0x8000#16) .reg1 ∧
    LifecycleAt (sequencing attached .banksRegistering .reg2 0x8000#16) .reg2 ∧
    (∀ l, (sequencing attached .banksRegistering l 0x8000#16).inputs.answer = .ok) ∧
    LifecycleAt (refused attached .banksRegistering .reg0 .registrationFailure) .reg0 ∧
    LifecycleAt (refused attached .banksRegistering .reg1 .registrationFailure) .reg1 ∧
    LifecycleAt (refused attached .banksRegistering .reg2 .resourceConflict) .reg2 ∧
    ∀ l k, (refused attached .banksRegistering l k).inputs.answer = .fail k :=
  ⟨⟨rfl, rfl⟩, ⟨rfl, rfl⟩, ⟨rfl, rfl⟩, fun _ => rfl, ⟨rfl, rfl⟩, ⟨rfl, rfl⟩, ⟨rfl, rfl⟩, fun _ _ => rfl⟩

theorem witness_RollbackSteps :
    LifecycleAt (sequencing attached .banksRegistering .rbu1 0x8000#16) .rbu1 ∧
    LifecycleAt (sequencing attached .banksRegistering .rbu0 0x8000#16) .rbu0 ∧
    LifecycleAt (sequencing attached .banksRegistering .rbunmap 0x8000#16) .rbunmap ∧
    LifecycleAt (sequencing attached .banksRegistering .rbrrel 0x8000#16) .rbrrel :=
  ⟨⟨rfl, rfl⟩, ⟨rfl, rfl⟩, ⟨rfl, rfl⟩, ⟨rfl, rfl⟩⟩

theorem witness_AttachSucceeds :
    LifecycleAt (sequencing unattached .unattached .dec 0x8000#16) .dec ∧
    (sequencing unattached .unattached .dec 0x8000#16).lc = .unattached ∧ (List.replicate 14 high).length = 14 ∧
    ∀ x ∈ List.replicate 14 high, x.answer = .ok :=
  ⟨⟨rfl, rfl⟩, rfl, rfl, fun _ hx => by rw [List.eq_of_mem_replicate hx]; rfl⟩

theorem witness_DrainWaitsForBusyRequesters :
    LifecycleAt (sequencing racing .detaching .dwait 0x9000#16) .dwait ∧
    racing.reqs[0]? = some { phase := .w1, cmd := 0x2500#16, reg := 0xA0#8, rsp := 0 } ∧
    LifecycleAt (sequencing attached .detaching .dwait 0x9000#16) .dwait ∧
    ∀ q ∈ attached.reqs, q.phase = .idle :=
  ⟨⟨rfl, rfl⟩, rfl, ⟨rfl, rfl⟩, by decide⟩

theorem witness_DetachTeardownSteps :
    LifecycleAt (sequencing attached .detaching .unreg2 0x9000#16) .unreg2 ∧
    LifecycleAt (sequencing attached .detaching .unreg1 0x9000#16) .unreg1 ∧
    LifecycleAt (sequencing attached .detaching .unreg0 0x9000#16) .unreg0 ∧
    LifecycleAt (sequencing attached .detaching .unmap 0x9000#16) .unmap ∧
    LifecycleAt (sequencing attached .detaching .rrel 0x9000#16) .rrel :=
  ⟨⟨rfl, rfl⟩, ⟨rfl, rfl⟩, ⟨rfl, rfl⟩, ⟨rfl, rfl⟩, ⟨rfl, rfl⟩⟩

theorem witness_DetachTearsDownInReverse :
    LifecycleAt (sequencing attached .attached .dec 0x9000#16) .dec ∧
    (sequencing attached .attached .dec 0x9000#16).lc = .attached ∧ ∀ q ∈ attached.reqs, q.phase.busy = false :=
  ⟨⟨rfl, rfl⟩, rfl, by decide⟩

theorem witness_LifecycleCommandFrame :
    (sequencing attached .detaching .unreg2 0x9000#16).turn = .lifecycle ∧
    (∃ t, step (sequencing attached .detaching .unreg2 0x9000#16) = .next t) ∧ decode 0x9000#16 = .ok .detach :=
  ⟨rfl, ⟨_, rfl⟩, by decide⟩

/-! ## Witnesses: the whole machine -/

/-- A state with idle ports and nothing listed meets the invariant if its lifecycle part fits its phase. -/
theorem inv_of_idle_ports {s : State} (hr : s.reqs = [Requester.reset, Requester.reset]) (hk : s.lockHeld = false)
    (hw : s.window = []) (hc : s.configSpace = []) (hl : s.lstep.allows s.lc = true) (hh : s.holdings = s.lstep.holds s.lc)
    (hm : ∀ w, s.lstep.command = some w → s.lcmd = w)
    (ha : s.lstep = .rres ∨ s.regionRsvd = true → s.dba.extractLsb' 0 8 = 0#8) (hf : s.lstep.failing = false)
    (hp : s.lstep ≠ .resp) (hx : ∀ k, s.lstep.dataLane = some k → s.idxReg = laneAddress s.params.laneOrder regOffset k)
    (hy : ∀ n, s.lstep.lanesDone = some n → s.acc = readLanes s.params.laneOrder s.configSpace regOffset n) : Inv s := by
  have idle : ∀ (r : Nat) (q : Requester), s.reqs[r]? = some q → q.phase = .idle := by
    intro r q hq
    have hmem := List.mem_of_getElem? hq
    rw [hr] at hmem
    simp only [List.mem_cons, List.not_mem_nil, or_false, or_self] at hmem
    rw [hmem]; rfl
  refine ⟨hl, hh, hm, ha, fun h => ?_, fun h => absurd h hp, hx, hy, fun r q hq => ⟨fun h => ?_, fun h => ?_⟩,
    fun r q hq h => ?_, fun r q hq h => ?_, fun h => ?_, fun r q i b n hq h => ?_, by rw [hw]; rfl, by rw [hc]; rfl⟩
  · rw [hf] at h; cases h
  · rw [idle r q hq] at h; cases h
  · rw [idle r q hq] at h; cases h
  · rw [idle r q hq] at h; cases h
  · rw [idle r q hq] at h; cases h
  · rw [hk] at h; cases h
  · rw [idle r q hq] at h; cases h

/-- Attached and quiet, nothing listed. -/
def quiet : State := { attached with configSpace := [] }

theorem inv_quiet : Inv quiet :=
  inv_of_idle_ports rfl rfl rfl rfl rfl rfl (by intro w h; cases h) (fun _ => by decide) rfl (by decide)
    (by intro k h; cases h) (by intro n h; cases h)

/-- Unattached, an `ATTACH` waiting for decode, nothing listed. -/
def attaching : State := { sequencing unattached .unattached .dec 0x8000#16 with configSpace := [] }

theorem inv_attaching : Inv attaching :=
  inv_of_idle_ports rfl rfl rfl rfl rfl rfl (by intro w h; cases h) (fun _ => by decide) rfl (by decide)
    (by intro k h; cases h) (by intro n h; cases h)

/-- A `DETACH` about to unmap. -/
def unmapping : State :=
  { sequencing quiet .detaching .unmap 0x9000#16 with bankEn := { b0 := false, b1 := false, b2 := false } }

theorem inv_unmapping : Inv unmapping :=
  inv_of_idle_ports rfl rfl rfl rfl rfl rfl (by intro w h; exact Option.some.inj h) (fun _ => by decide) rfl (by decide)
    (by intro k h; cases h) (by intro n h; cases h)

/-- Requester 0 runs `SET 1, 0, 1`, in a phase, with a latched byte that is the line register's. -/
def holding (p : Phase) (v : Byte) : State :=
  { running 0x2500#16 p v 128 0 with configSpace := [], window := Memory.write .window [] 128 v }

/-- The ports of `holding`. -/
theorem holding_ports {p : Phase} {v : Byte} {r : Nat} {q : Requester} (h : (holding p v).reqs[r]? = some q) :
    (r = 0 ∧ q = { phase := p, cmd := 0x2500#16, reg := v, rsp := 0 }) ∨ q = Requester.reset := by
  match r with
  | 0 => exact .inl ⟨rfl, (Option.some.inj h).symm⟩
  | 1 => exact .inr (Option.some.inj h).symm
  | n + 2 => simp [holding, running] at h

theorem holding_line (p : Phase) (v : Byte) : (holding p v).line 128 = Space.stored .window v := by
  simp [holding, State.line]

theorem inv_holding {p : Phase} {v : Byte} (hb : p.busy = true) (hf : fitsPhase p (.set 1 0 true) v = true) :
    Inv (holding p v) where
  lifecycle := rfl
  holds := rfl
  latched := by intro w h; cases h
  aligned := fun _ => show (0x00123400#32).extractLsb' 0 8 = 0#8 by decide
  failing := by intro h; cases h
  answered := by intro h; cases h
  indexed := by intro k h; cases h
  accumulated := by intro n h; cases h
  fits := by
    intro r q hq
    rcases holding_ports hq with ⟨_, rfl⟩ | rfl
    · exact And.intro (fun _ => ⟨.set 1 0 true, show decode 0x2500#16 = .ok (.set 1 0 true) by decide, hf⟩)
        (by intro h; change p = .resp at h; rw [h] at hb; cases hb)
    · exact And.intro (by intro h; cases h) (by intro h; cases h)
  gated := by intro _ _ _ _; exact .inl rfl
  owned := by
    intro r q hq h
    rcases holding_ports hq with ⟨rfl, rfl⟩ | rfl
    · exact ⟨h, rfl⟩
    · cases h
  holder := fun h => ⟨_, rfl, h⟩
  fresh := by
    intro r q i b n hq h hd hl
    rcases holding_ports hq with ⟨_, rfl⟩ | rfl
    · have e : decode 0x2500#16 = .ok (.set 1 0 true) := by decide
      rw [e] at hd; cases hd; cases hl
      exact (holding_line p v).symm
    · cases h
  windowForm := Memory.write_wf _ (by decide) rfl
  configForm := rfl

/-- The invariant does not speak of the outside's choices. -/
theorem inv_with_choice {s : State} (h : Inv s) (turn : Turn) (inputs : Inputs) (script : List Move) (drawn : Nat) :
    Inv { s with turn := turn, inputs := inputs, script := script, drawn := drawn } :=
  ⟨h.lifecycle, h.holds, h.latched, h.aligned, h.failing, h.answered, h.indexed, h.accumulated, h.fits, h.gated, h.owned,
    h.holder, h.fresh, h.windowForm, h.configForm⟩

/-- P4 between the two writes: requester 0 is about to write the level of line (1, 0). -/
def writing : State := holding .w2 0x80#8

theorem writing_line : writing.line 128 = 0x00#8 := holding_line .w2 0x80#8

theorem inv_writing : Inv writing := inv_holding rfl (by decide)

/-- P6: a `DETACH` waits while requester 0 is about to write. -/
def draining : State := { writing with lc := .detaching, lstep := .dwait, lcmd := 0x9000#16 }

theorem inv_draining : Inv draining :=
  ⟨rfl, rfl, (by intro w h; exact Option.some.inj h), fun _ => inv_writing.aligned (.inr rfl), (by intro h; cases h),
    (by intro h; cases h), (by intro k h; cases h), (by intro n h; cases h), inv_writing.fits, fun _ _ _ _ => .inr rfl, inv_writing.owned, inv_writing.holder,
    inv_writing.fresh, inv_writing.windowForm, inv_writing.configForm⟩

theorem witness_AttachRollsBackFailedBankTwo :
    Inv attaching ∧ LifecycleAt attaching .dec ∧ attaching.lc = .unattached ∧ (List.replicate 13 high).length = 13 ∧
    (∀ x ∈ List.replicate 13 high, x.answer = .ok) ∧ (refusing .resourceConflict).answer = .fail .resourceConflict :=
  ⟨inv_attaching, ⟨rfl, rfl⟩, rfl, rfl, fun _ hx => by rw [List.eq_of_mem_replicate hx]; rfl, rfl⟩

theorem witness_EveryStepKeepsTheInvariant : Inv writing ∧ ∃ t, step writing = .next t := ⟨inv_writing, _, rfl⟩

theorem witness_TheMachineNeverStops : Inv quiet := inv_quiet

/-- A state that meets the invariant, and one that two steps from reset reach: the word of an `ATTACH` latched, then decoded. -/
theorem witness_InvariantGivesSpecInvariants :
    Inv writing ∧
    Reachable { State.reset with
      lc := .discovering, lstep := .pres, lcmd := 0x8000#16, turn := .other, inputs := high, script := [],
      history := [.issue .lifecycle 0x8000#16] } :=
  ⟨inv_writing, 2, { turn := .lifecycle, inputs := { high with word := some 0x8000#16 } },
    [{ turn := .lifecycle, inputs := high }, { turn := .other, inputs := high }], rfl⟩

theorem witness_MutualExclusion :
    Inv writing ∧ writing.reqs[0]? = some { phase := .w2, cmd := 0x2500#16, reg := 0x80#8, rsp := 0 } ∧
    Phase.holdsLock .w2 = true :=
  ⟨inv_writing, rfl, rfl⟩

/-- The level write of `writing` changes line 128 from 0 to `OUTL = 1`. -/
theorem witness_OnlyTheLockHolderWrites : Inv writing ∧ ∃ t, step writing = .next t ∧ t.line 128 ≠ writing.line 128 := by
  refine ⟨inv_writing, _, rfl, ?_⟩
  rw [writing_line]
  show Memory.read .window (Memory.write .window writing.window 128 0xC0#8) 128 ≠ 0x00#8
  rw [Memory.read_write_same]
  decide

/-- The longest and the last phase of a lock holder, its release, and a step of another agent. -/
theorem witness_HolderReachesReleaseInThreeSteps :
    Inv (holding .rdl 0) ∧ (holding .rdl 0).turn = .requester 0 ∧ Phase.rdl.holdsLock = true ∧
    Inv writing ∧ writing.turn = .requester 0 ∧ Phase.w2.holdsLock = true ∧
    Inv (holding .rel 0) ∧ (holding .rel 0).turn = .requester 0 ∧ Phase.rel.holdsLock = true ∧
    Inv { writing with turn := .other } :=
  ⟨inv_holding rfl (by decide), rfl, rfl, inv_writing, rfl, rfl, inv_holding rfl (by decide), rfl, rfl,
    inv_with_choice inv_writing .other _ _ _⟩

/-- A step that unmaps, and a step of a requester that is still busy while a `DETACH` waits. -/
theorem witness_DetachLetsBusyRequestersFinish :
    Inv unmapping ∧ unmapping.mapped = true ∧ unmapping.reqs[0]? = some Requester.reset ∧
    (∃ t, step unmapping = .next t ∧ t.mapped = false ∧ t.reqs[0]? = some Requester.reset) ∧
    Inv draining ∧ draining.lc = .detaching ∧
    ∃ t, step draining = .next t ∧ t.reqs[0]? = some { phase := .rel, cmd := 0x2500#16, reg := 0xC0#8, rsp := 0 } :=
  ⟨inv_unmapping, rfl, rfl, ⟨_, rfl, rfl, rfl⟩, inv_draining, rfl, _, rfl, rfl⟩

theorem witness_LifecycleMovesAlongTheChain : Inv attaching ∧ ∃ t, step attaching = .next t ∧ t.lc = .discovering :=
  ⟨inv_attaching, _, rfl, rfl⟩

/-- The base read in a phase, `n` lanes read, the index register at lane `k`; the base it starts from is no base. -/
def reading (l : LStep) (k n : Nat) : State :=
  { sequencing unattached .discovering l 0x8000#16 with
    configSpace := [], portsRsvd := true, dba := 1#32, idxReg := laneAddress .ascending 0x24#8 k,
    acc := readLanes .ascending [] 0x24#8 n }

theorem inv_reading_data : Inv (reading .dat1 1 0) ∧ Inv (reading .dat2 2 1) ∧ Inv (reading .dat3 3 2) := by
  refine ⟨?_, ?_, ?_⟩ <;>
    exact inv_of_idle_ports rfl rfl rfl rfl rfl rfl (by intro w h; exact Option.some.inj h)
      (by intro h; rcases h with h | h <;> cases h) rfl (by decide) (by intro k h; cases h; rfl) (by intro n h; cases h; rfl)

theorem inv_reading_release : Inv (reading .prel 3 3) :=
  inv_of_idle_ports rfl rfl rfl rfl rfl rfl (by intro w h; exact Option.some.inj h)
    (by intro h; rcases h with h | h <;> cases h) rfl (by decide) (by intro k h; cases h) (by intro n h; cases h; rfl)

theorem witness_BaseIsWrittenAtPortReleaseOnly :
    Inv (reading .prel 3 3) ∧ ∃ t, step (reading .prel 3 3) = .next t ∧ t.dba ≠ (reading .prel 3 3).dba := by
  refine ⟨inv_reading_release, _, rfl, fun h => ?_⟩
  have aligned := baseOf_aligned .mask (readLanes .ascending [] 0x24#8 3)
  rw [show baseOf .mask (readLanes .ascending [] 0x24#8 3) = 1#32 from h] at aligned
  exact absurd aligned (by decide)

/-- A step that writes an index, and the three data steps. -/
theorem witness_LaneZeroIsNeverIndexed :
    (∃ t, step (reading .idx1 0 0) = .next t ∧ t.history = [.ioWrite 0x0100#16 0x25#8]) ∧
    (Inv (reading .dat1 1 0) ∧ Inv (reading .dat2 2 1) ∧ Inv (reading .dat3 3 2)) ∧
    LifecycleAt (reading .dat1 1 0) .dat1 ∧ LifecycleAt (reading .dat2 2 1) .dat2 ∧ LifecycleAt (reading .dat3 3 2) .dat3 :=
  ⟨⟨_, rfl, rfl⟩, inv_reading_data, ⟨rfl, rfl⟩, ⟨rfl, rfl⟩, ⟨rfl, rfl⟩⟩

/-- The base read of the vectors, one lane at a time (table T3). -/
theorem test_readLanes :
    let space : Memory := [(0x25, 0x12#8), (0x26, 0x34#8), (0x27, 0x56#8)]
    readLanes .ascending space 0x24#8 1 = 0x000012#24 ∧ readLanes .ascending space 0x24#8 2 = 0x001234#24 ∧
    readLanes .ascending space 0x24#8 3 = 0x123456#24 ∧ readLanes .descending space 0x24#8 3 = 0x563412#24 := by decide

/-! ## A fair run -/

/-- A state with the turn given to one agent, and an outside that presents nothing and leaves responses untaken. -/
def lone (agent : Turn) (s : State) : State :=
  { s with turn := agent, inputs := { high with taken := false }, script := [], drawn := 0 }

/-- The next state, with the turn given to the same agent again. -/
def advance (agent : Turn) (s : State) : State :=
  match step s with
  | .next t => lone agent t
  | .fault _ | .refused _ => s

theorem advance_of_step {agent : Turn} {s t : State} (h : step s = .next t) : advance agent s = lone agent t := by
  rw [advance, h]

/-- The states of one agent alone. -/
def alone (agent : Turn) (s : State) : Nat → State
  | 0 => lone agent s
  | k + 1 => advance agent (alone agent s k)

/-- A run of one agent alone, all of whose steps answer. -/
theorem isRun_alone {agent : Turn} {s : State} (h : ∀ k, ∃ t, step (alone agent s k) = .next t) : IsRun (alone agent s) := by
  intro k
  obtain ⟨t, ht⟩ := h k
  refine ⟨t, ht, ?_⟩
  rw [show alone agent s (k + 1) = lone agent t from advance_of_step ht]
  rfl

/-- `SET 1, 0, 1` on an output line, from the wait for a free lock to its response, which is then left untaken. -/
def setRun : Nat → State := alone (.requester 0) (holding .acq 0x00#8)

/-- The locked read of the run finds an output line. -/
theorem setRun_line : isInput ((setRun 1).readLine 128) = false := by
  have stored : (setRun 1).line 128 = 0x00#8 := holding_line .acq 0x00#8
  rw [State.readLine, stored]
  cases (setRun 1).inputs.outputBit7 <;> decide

/-- The state after the locked read. -/
def afterRead : State :=
  { setRun 1 with
    reqs := [{ phase := .w2, cmd := 0x2500#16, reg := (setRun 1).readLine 128, rsp := 0 }, Requester.reset],
    history := .memRead 0 (lineAddr (setRun 1) 1 0) ((setRun 1).readLine 128) :: (setRun 1).history }

theorem setRun_two : setRun 2 = afterRead := by
  show ({ setRun 1 with
    reqs := [{ phase := if isInput ((setRun 1).readLine 128) then .w1 else .w2, cmd := 0x2500#16,
               reg := (setRun 1).readLine 128, rsp := 0 }, Requester.reset],
    history := .memRead 0 (lineAddr (setRun 1) 1 0) ((setRun 1).readLine 128) :: (setRun 1).history } : State) = afterRead
  rw [setRun_line]
  rfl

/-- From the response on the run stands still. -/
theorem setRun_still (k : Nat) : setRun (k + 4) = advance (.requester 0) (advance (.requester 0) afterRead) := by
  induction k with
  | zero => show advance (.requester 0) (advance (.requester 0) (setRun 2)) = _; rw [setRun_two]
  | succ k ih => show advance (.requester 0) (setRun (k + 4)) = _; rw [ih]; rfl

/-- A state of the run: requester 0 in a phase and with the turn, nothing else in flight, and a step that answers. -/
structure SetState (s : State) (p : Phase) : Prop where
  turn : s.turn = .requester 0
  ports : ∃ b w, s.reqs = [{ phase := p, cmd := 0x2500#16, reg := b, rsp := w }, Requester.reset]
  idle : s.lstep = .idle
  free : p = .acq → s.lockHeld = false
  steps : ∃ t, step s = .next t

theorem setRun_state (k : Nat) : ∃ p, SetState (setRun k) p :=
  match k with
  | 0 => ⟨.acq, rfl, ⟨_, _, rfl⟩, rfl, fun _ => rfl, _, rfl⟩
  | 1 => ⟨.rdl, rfl, ⟨_, _, rfl⟩, rfl, (by intro h; cases h), _, rfl⟩
  | 2 => by rw [setRun_two]; exact ⟨.w2, rfl, ⟨_, _, rfl⟩, rfl, (by intro h; cases h), _, rfl⟩
  | 3 => by
    rw [show setRun 3 = advance (.requester 0) afterRead from congrArg (advance (.requester 0)) setRun_two]
    exact ⟨.rel, rfl, ⟨_, _, rfl⟩, rfl, (by intro h; cases h), _, rfl⟩
  | k + 4 => by
    rw [setRun_still]
    exact ⟨.resp, rfl, ⟨_, _, rfl⟩, rfl, (by intro h; cases h), _, rfl⟩

/-- Requester 0 alone has an enabled step in the run. -/
theorem enabled_of_setState {s : State} {p : Phase} {a : Turn} (h : SetState s p) (he : s.enabled a = true) :
    a = .requester 0 := by
  obtain ⟨b, w, ports⟩ := h.ports
  rcases enabled_cases he with ⟨r, q, rfl, hq⟩ | rfl
  · match r with
    | 0 => rfl
    | 1 =>
      rw [ports] at hq
      cases hq
      exact absurd rfl ((enabled_requester (by rw [ports]; rfl)).mp he).1
    | n + 2 => simp [ports] at hq
  · exact absurd h.idle ((enabled_lifecycle s).mp he).1

/-- Whoever waits for the lock in the run is requester 0, and it has the turn and an enabled step. -/
theorem waiter_of_setState {s : State} {p : Phase} {r : Nat} {q : Requester} (h : SetState s p) (hq : s.reqs[r]? = some q)
    (hw : q.phase = .acq) : s.turn = .requester r ∧ s.enabled (.requester r) = true := by
  obtain ⟨b, w, ports⟩ := h.ports
  have hq' := hq
  rw [ports] at hq'
  match r with
  | 0 =>
    cases hq'
    exact ⟨h.turn, (enabled_requester hq).mpr ⟨by rw [hw]; decide, by rw [hw]; decide, fun _ => h.free hw⟩⟩
  | 1 => cases hq'; cases hw
  | n + 2 => simp at hq'

theorem isRun_setRun : IsRun setRun := isRun_alone fun k => (setRun_state k).elim fun _ h => h.steps

theorem fairRun_setRun : FairRun setRun := by
  refine ⟨fun k a he => ?_, fun k r q hq hw => ?_⟩
  · obtain ⟨p, h⟩ := setRun_state k
    obtain rfl := enabled_of_setState h he
    exact ⟨k, le_refl k, h.turn, he⟩
  · obtain ⟨p, h⟩ := setRun_state k
    exact ⟨k, le_refl k, waiter_of_setState h hq hw⟩

/-- A `DETACH` while unattached, from its decode step to its response, which is then left untaken. -/
def refusedRun : Nat → State := alone .lifecycle { sequencing unattached .unattached .dec 0x9000#16 with configSpace := [] }

theorem refusedRun_still (k : Nat) : refusedRun (k + 1) = refusedRun 1 := by
  induction k with
  | zero => rfl
  | succ k ih => show advance .lifecycle (refusedRun (k + 1)) = _; rw [ih]; rfl

theorem isRun_refusedRun : IsRun refusedRun := isRun_alone fun k =>
  match k with
  | 0 => ⟨_, rfl⟩
  | k + 1 => by
    show ∃ t, step (refusedRun (k + 1)) = .next t
    rw [refusedRun_still]
    exact ⟨_, rfl⟩

theorem refusedRun_state (k : Nat) :
    (refusedRun k).turn = .lifecycle ∧ (refusedRun k).reqs = [Requester.reset, Requester.reset] :=
  match k with
  | 0 => ⟨rfl, rfl⟩
  | k + 1 => by rw [refusedRun_still]; exact ⟨rfl, rfl⟩

/-- The requesters are idle in the run. -/
theorem refusedRun_idle {k r : Nat} {q : Requester} (hq : (refusedRun k).reqs[r]? = some q) : q.phase = .idle := by
  have hmem := List.mem_of_getElem? hq
  rw [(refusedRun_state k).2] at hmem
  simp only [List.mem_cons, List.not_mem_nil, or_false, or_self] at hmem
  rw [hmem]; rfl

theorem fairRun_refusedRun : FairRun refusedRun := by
  refine ⟨fun k a he => ?_, fun k r q hq hw => ?_⟩
  · rcases enabled_cases he with ⟨r, q, rfl, hq⟩ | rfl
    · exact absurd (refusedRun_idle hq) ((enabled_requester hq).mp he).1
    · exact ⟨k, le_refl k, (refusedRun_state k).1, he⟩
  · rw [refusedRun_idle hq] at hw; cases hw

/-- A run with a requester that waits for the lock, and one with a lifecycle command in its decode step. -/
theorem witness_FairRunAnswersEveryCommand :
    (IsRun setRun ∧ FairRun setRun ∧ Inv (setRun 0) ∧
      (setRun 0).reqs[0]? = some { phase := .acq, cmd := 0x2500#16, reg := 0x00#8, rsp := 0 }) ∧
    IsRun refusedRun ∧ FairRun refusedRun ∧ Inv (refusedRun 0) ∧ (refusedRun 0).lstep = .dec :=
  ⟨⟨isRun_setRun, fairRun_setRun, inv_with_choice (inv_holding rfl (by decide)) _ _ _ _, rfl⟩,
    isRun_refusedRun, fairRun_refusedRun,
    inv_of_idle_ports rfl rfl rfl rfl rfl rfl (by intro w h; cases h) (fun _ => by decide) rfl (by decide)
      (by intro k h; cases h) (by intro n h; cases h), rfl⟩

theorem witness_ConfigurationIsConstant : ∃ t, step writing = .next t := ⟨_, rfl⟩

theorem witness_QuiescentStatesAreSettled : Inv quiet ∧ quiet.quiescent := by
  refine ⟨inv_quiet, rfl, fun r q hq => ?_⟩
  have hmem : q ∈ quiet.reqs := List.mem_of_getElem? hq
  simp only [quiet, attached, unattached, List.mem_cons, List.not_mem_nil, or_false, or_self] at hmem
  rw [hmem]; rfl

theorem witness_OtherUserWritesTheIndexOnlyWhenFree : quiet.turn = .other ∧ quiet.portsRsvd = false := ⟨rfl, rfl⟩

end Sys2Proof.Tests
end

/-!
PROOFS, part 1. What one step of each agent can do, said once: `RequesterStep` for a requester's sequencer (R20),
`LifecycleStep` for the lifecycle sequencer (R23), and `step_cases`, which says that a step of the machine is one of these, the
index write of another user of the port pair, or no change.
-/
namespace Sys2Proof.Machine

/-! ## A requester's sequencer -/

/-- Where a direction write goes: `SET` has its level write still to do (R121, R122). -/
def afterDirection (i : Instr) : Phase := if isSet i then .w2 else .rel

/-- Where the locked read goes (R117): to a direction write if the direction has to change, else past it. -/
def afterRead (i : Instr) (b : Byte) : Phase := if isInput b = writesFrom i then .w1 else afterDirection i

/-- What a step of requester port `r`, which holds `q`, can make of a state: one constructor for each phase and branch. A hold
is not listed, since it changes nothing; the status of a refusal is left open. -/
inductive RequesterStep (s : State) (r : Nat) (q : Requester) : State → Prop
  /-- R112 -/
  | issued (w : Command) (phase : q.phase = .idle) :
    RequesterStep s r q
      { s with reqs := s.reqs.set r { q with cmd := w, phase := .dec }, history := .issue (.requester r) w :: s.history }
  /-- R125 -/
  | taken (phase : q.phase = .resp) : RequesterStep s r q { s with reqs := s.reqs.set r { q with phase := .idle } }
  /-- R69, R113, R165 to R167 -/
  | refused (e : Status) (phase : q.phase = .dec) :
    RequesterStep s r q
      { s with reqs := s.reqs.set r { q with rsp := responseWord false e.code, phase := .resp },
               history := .response (.requester r) (responseWord false e.code) :: s.history }
  /-- R113 -/
  | admitted (i : Instr) (b n : Nat) (phase : q.phase = .dec) (decodes : decode q.cmd = .ok i) (line : lineOf i = some (b, n))
      (attached : s.lc = .attached) (range : inRange b n = true) :
    RequesterStep s r q { s with reqs := s.reqs.set r { q with phase := if takesLock i then .acq else .rdu } }
  /-- R114 -/
  | answered (b n o : Nat) (phase : q.phase = .rdu) (decodes : decode q.cmd = .ok (.get b n))
      (address : lineAt s (lineAddr s b n) = some o) :
    RequesterStep s r q
      { s with reqs := s.reqs.set r { q with reg := s.readLine o, rsp := responseWord (readLevel (s.readLine o)) Status.ok.code,
                                             phase := .resp },
               history := .response (.requester r) (responseWord (readLevel (s.readLine o)) Status.ok.code) ::
                 .memRead r (lineAddr s b n) (s.readLine o) :: s.history }
  /-- R116 -/
  | acquired (i : Instr) (phase : q.phase = .acq) (decodes : decode q.cmd = .ok i) (lock : takesLock i = true)
      (free : s.lockHeld = false) :
    RequesterStep s r q
      { s with lockHeld := true, lockOwner := r, reqs := s.reqs.set r { q with phase := .rdl },
               history := .lockAcquire r :: s.history }
  /-- R117 -/
  | read (i : Instr) (b n o : Nat) (phase : q.phase = .rdl) (decodes : decode q.cmd = .ok i) (line : lineOf i = some (b, n))
      (lock : takesLock i = true) (address : lineAt s (lineAddr s b n) = some o) :
    RequesterStep s r q
      { s with reqs := s.reqs.set r { q with reg := s.readLine o, phase := afterRead i (s.readLine o) },
               history := .memRead r (lineAddr s b n) (s.readLine o) :: s.history }
  /-- R121, R122 -/
  | directionWritten (i : Instr) (b n o : Nat) (phase : q.phase = .w1) (decodes : decode q.cmd = .ok i)
      (line : lineOf i = some (b, n)) (lock : takesLock i = true) (address : lineAt s (lineAddr s b n) = some o) :
    RequesterStep s r q
      { s with reqs := s.reqs.set r { q with reg := withDirection q.reg (!writesFrom i), phase := afterDirection i },
               window := s.window.write .window o (withDirection q.reg (!writesFrom i)),
               history := .memWrite r (lineAddr s b n) (withDirection q.reg (!writesFrom i)) :: s.history }
  /-- R123 -/
  | levelWritten (b n : Nat) (level : Bool) (o : Nat) (phase : q.phase = .w2) (decodes : decode q.cmd = .ok (.set b n level))
      (address : lineAt s (lineAddr s b n) = some o) :
    RequesterStep s r q
      { s with reqs := s.reqs.set r { q with reg := withOutputLevel q.reg level, phase := .rel },
               window := s.window.write .window o (withOutputLevel q.reg level),
               history := .memWrite r (lineAddr s b n) (withOutputLevel q.reg level) :: s.history }
  /-- R124 -/
  | released (i : Instr) (phase : q.phase = .rel) (decodes : decode q.cmd = .ok i) (lock : takesLock i = true) :
    RequesterStep s r q
      { s with lockHeld := false, reqs := s.reqs.set r { q with rsp := 0x00#8, phase := .resp },
               history := .response (.requester r) 0x00#8 :: .lockRelease r :: s.history }

section
variable {s u : State} {r : Nat} {q : Requester} {i : Instr}

theorem respond_requester_of_port (w : Byte) (hq : s.reqs[r]? = some q) :
    respond (.requester r) w s =
      { s with reqs := s.reqs.set r { q with rsp := w, phase := .resp }, history := .response (.requester r) w :: s.history } := by
  rw [respond_requester, modify_eq_set_of_getElem? _ hq]

theorem RequesterStep.of_raise (e : Status) (hq : s.reqs[r]? = some q) (hp : q.phase = .dec) :
    RequesterStep s r q (raise (.requester r) e s) := by
  rw [raise, respond_requester_of_port _ hq]
  exact .refused e hp

theorem RequesterStep.of_lineGate {b n : Nat} (hq : s.reqs[r]? = some q) (hp : q.phase = .dec) (hd : decode q.cmd = .ok i)
    (hl : lineOf i = some (b, n)) : RequesterStep s r q (lineGate r b n (if takesLock i then .acq else .rdu) s) := by
  rcases lineGate_cases r b n (if takesLock i then .acq else .rdu) s with ⟨_, e⟩ | ⟨_, _, e⟩ | ⟨hc, hr, e⟩ <;> rw [e]
  · exact .of_raise _ hq hp
  · exact .of_raise _ hq hp
  · rw [State.setPhase, State.modReq, modify_eq_set_of_getElem? _ hq]
    exact .admitted i b n hp hd hl hc hr

theorem RequesterStep.of_acquireLock (hq : s.reqs[r]? = some q) (hp : q.phase = .acq) (hd : decode q.cmd = .ok i)
    (hk : takesLock i = true) : acquireLock r s = s ∨ RequesterStep s r q (acquireLock r s) := by
  rcases acquireLock_cases r s with ⟨_, e⟩ | ⟨hf, e⟩
  · exact .inl e
  · rw [e, modify_eq_set_of_getElem? _ hq]
    exact .inr (.acquired i hp hd hk hf)

theorem RequesterStep.of_readUnlocked {b n : Nat} (hq : s.reqs[r]? = some q) (hp : q.phase = .rdu)
    (hd : decode q.cmd = .ok (.get b n)) (h : readUnlocked r b n s = .next u) : RequesterStep s r q u := by
  obtain ⟨o, ho, rfl⟩ := readUnlocked_eq_next h
  rw [respond_requester, State.modReq, modify_eq_set_of_getElem? (q := q) _ (by simpa using hq)]
  simp only [set_modify_self]
  exact .answered b n o hp hd ho

theorem RequesterStep.of_readLocked {b n : Nat} {go : Byte → Phase} (hq : s.reqs[r]? = some q) (hp : q.phase = .rdl)
    (hd : decode q.cmd = .ok i) (hl : lineOf i = some (b, n)) (hk : takesLock i = true) (hg : go = afterRead i)
    (h : readLocked r b n go s = .next u) : RequesterStep s r q u := by
  obtain ⟨o, ho, rfl⟩ := readLocked_eq_next h
  subst hg
  rw [modify_eq_set_of_getElem? _ hq]
  exact .read i b n o hp hd hl hk ho

theorem RequesterStep.of_writeDirection {b n : Nat} (hq : s.reqs[r]? = some q) (hp : q.phase = .w1)
    (hd : decode q.cmd = .ok i) (hl : lineOf i = some (b, n)) (hk : takesLock i = true)
    (h : writeBack r b n (withDirection q.reg (!writesFrom i)) (afterDirection i) s = .next u) : RequesterStep s r q u := by
  obtain ⟨o, ho, rfl⟩ := writeBack_eq_next h
  rw [modify_eq_set_of_getElem? _ hq]
  exact .directionWritten i b n o hp hd hl hk ho

theorem RequesterStep.of_writeLevel {b n : Nat} {level : Bool} (hq : s.reqs[r]? = some q) (hp : q.phase = .w2)
    (hd : decode q.cmd = .ok (.set b n level)) (h : writeBack r b n (withOutputLevel q.reg level) .rel s = .next u) :
    RequesterStep s r q u := by
  obtain ⟨o, ho, rfl⟩ := writeBack_eq_next h
  rw [modify_eq_set_of_getElem? _ hq]
  exact .levelWritten b n level o hp hd ho

theorem RequesterStep.of_releaseLock (hq : s.reqs[r]? = some q) (hp : q.phase = .rel) (hd : decode q.cmd = .ok i)
    (hk : takesLock i = true) : RequesterStep s r q (releaseLock r s) := by
  rw [releaseLock_eq, modify_eq_set_of_getElem? _ hq]
  exact .released i hp hd hk

/-- `DIR_IN` writes the byte of an output line, `DIR_OUT` that of an input line (R117). -/
theorem afterRead_direction {input : Bool} (h : writesFrom i = !input) (hs : isSet i = false) :
    (fun b => if isInput b = input then Phase.rel else .w1) = afterRead i := by
  funext b
  cases hb : isInput b <;> cases input <;> simp [afterRead, afterDirection, hb, h, hs]

/-- `SET` writes the direction of an input line first (R117, R120). -/
theorem afterRead_set (b n : Nat) (level : Bool) :
    (fun v => if isInput v then Phase.w1 else .w2) = afterRead (.set b n level) := rfl

theorem directionStep_cases {input : Bool} {b n : Nat} (ht : s.turn = .requester r) (hq : s.reqs[r]? = some q)
    (hd : decode q.cmd = .ok i) (hl : lineOf i = some (b, n)) (hk : takesLock i = true) (hw : writesFrom i = !input)
    (hs : isSet i = false) (h : directionStep input b n s = .next u) : u = s ∨ RequesterStep s r q u := by
  have hv : input = !writesFrom i := by simp [hw]
  have hg : afterDirection i = .rel := by simp [afterDirection, hs]
  rw [directionStep, onRequester_of_turn ht hq] at h
  cases hp : q.phase <;> simp only [hp] at h
  case dec =>
    cases h
    exact .inr (by simpa [hk] using RequesterStep.of_lineGate hq hp hd hl)
  case acq => cases h; exact RequesterStep.of_acquireLock hq hp hd hk
  case rdl => exact .inr (.of_readLocked hq hp hd hl hk (afterRead_direction hw hs) h)
  case w1 => exact .inr (.of_writeDirection hq hp hd hl hk (by rwa [← hv, hg]))
  case rel => cases h; exact .inr (.of_releaseLock hq hp hd hk)
  all_goals cases h

theorem execGet_cases {b n : Nat} (ht : s.turn = .requester r) (hq : s.reqs[r]? = some q)
    (hd : decode q.cmd = .ok (.get b n)) (h : execGet b n s = .next u) : RequesterStep s r q u := by
  rw [execGet, onRequester_of_turn ht hq] at h
  cases hp : q.phase <;> simp only [hp] at h
  case dec => cases h; exact .of_lineGate hq hp hd rfl
  case rdu => exact .of_readUnlocked hq hp hd h
  all_goals cases h

theorem execSet_cases {b n : Nat} {level : Bool} (ht : s.turn = .requester r) (hq : s.reqs[r]? = some q)
    (hd : decode q.cmd = .ok (.set b n level)) (h : execSet b n level s = .next u) : u = s ∨ RequesterStep s r q u := by
  rw [execSet, onRequester_of_turn ht hq] at h
  cases hp : q.phase <;> simp only [hp] at h
  case dec => cases h; exact .inr (.of_lineGate hq hp hd rfl)
  case acq => cases h; exact RequesterStep.of_acquireLock hq hp hd rfl
  case rdl => exact .inr (.of_readLocked hq hp hd rfl rfl (afterRead_set b n level) h)
  case w1 => exact .inr (.of_writeDirection hq hp hd rfl rfl h)
  case w2 => exact .inr (.of_writeLevel hq hp hd h)
  case rel => cases h; exact .inr (.of_releaseLock hq hp hd rfl)
  all_goals cases h

theorem onLifecycle_cases {k : Result} (ht : s.turn = .requester r) (hq : s.reqs[r]? = some q)
    (h : onLifecycle s k = .next u) : RequesterStep s r q u := by
  rcases onLifecycle_eq_next h with ⟨ht', _⟩ | ⟨r', q', ht', hq', hp, rfl⟩
  · rw [ht] at ht'; cases ht'
  · rw [ht] at ht'; cases ht'
    rw [hq] at hq'; cases hq'
    exact .of_raise _ hq hp

/-- The meaning of a requester's latched command holds, or is one of the steps listed. -/
theorem exec_cases_requester (ht : s.turn = .requester r) (hq : s.reqs[r]? = some q) (hd : decode q.cmd = .ok i)
    (h : exec i s = .next u) : u = s ∨ RequesterStep s r q u := by
  cases i with
  | get b n => exact .inr (execGet_cases ht hq hd h)
  | set b n level => exact execSet_cases ht hq hd h
  | dirOut b n => exact directionStep_cases ht hq hd rfl rfl rfl rfl h
  | dirIn b n => exact directionStep_cases ht hq hd rfl rfl rfl rfl h
  | attach => exact .inr (onLifecycle_cases ht hq h)
  | detach => exact .inr (onLifecycle_cases ht hq h)

end

/-! ## The lifecycle sequencer -/

/-- What a step of the lifecycle port can make of a state: one constructor for each kind of step, with the phases it leads from
and to. The drain's hold is not listed, since it changes nothing. -/
inductive LifecycleStep (s : State) : State → Prop
  /-- R140 -/
  | issued (w : Command) (phase : s.lstep = .idle) :
    LifecycleStep s { s with lcmd := w, lstep := .dec, history := .issue .lifecycle w :: s.history }
  /-- R158 -/
  | taken (phase : s.lstep = .resp) : LifecycleStep s { s with lstep := .idle }
  /-- R69, R141, R151, R165, R166 -/
  | refused (e : Status) (phase : s.lstep = .dec) :
    LifecycleStep s
      { s with lrsp := responseWord false e.code, lstep := .resp,
               history := .response .lifecycle (responseWord false e.code) :: s.history }
  /-- R141 -/
  | attachStarted (phase : s.lstep = .dec) (word : s.lcmd = 0x8000#16) (unattached : s.lc = .unattached) :
    LifecycleStep s { s with lc := .discovering, lstep := .pres }
  /-- R151 -/
  | detachStarted (phase : s.lstep = .dec) (word : s.lcmd = 0x9000#16) (attached : s.lc = .attached) :
    LifecycleStep s { s with lc := .detaching, lstep := .dwait }
  /-- R142 -/
  | portsReserved (phase : s.lstep = .pres) (granted : s.inputs.answer = .ok) :
    LifecycleStep s
      { s with portsRsvd := true, acc := 0, lstep := .idx1, history := .env .reservePorts (some .ok) :: s.history }
  /-- R142, R145 -/
  | resourceRefused {request : EnvRequest} {kind : FailKind}
      (phase : (s.lstep, request) ∈ [(.pres, .reservePorts), (.rres, .reserveRegion (windowBase s.dba) windowSize)])
      (failed : s.inputs.answer = .fail kind) :
    LifecycleStep s
      { s with lc := .unattached, lrsp := 0x01#8, lstep := .resp,
               history := .response .lifecycle 0x01#8 :: .env request (some (.fail kind)) :: s.history }
  /-- R83, R143 -/
  | indexWritten {k : Nat} {go : LStep} (phase : (s.lstep, k, go) ∈ [(.idx1, 1, .dat1), (.idx2, 2, .dat2), (.idx3, 3, .dat3)])
      (reserved : s.portsRsvd = true) :
    LifecycleStep s
      { s with idxReg := laneAddress s.params.laneOrder regOffset k, lstep := go,
               history := .ioWrite s.params.indexPort (laneAddress s.params.laneOrder regOffset k) :: s.history }
  /-- R84, R143 -/
  | dataRead {go : LStep} (phase : (s.lstep, go) ∈ [(.dat1, .idx2), (.dat2, .idx3), (.dat3, .prel)])
      (reserved : s.portsRsvd = true) :
    LifecycleStep s
      { s with acc := accumulate s.acc (s.configSpace.read .config s.idxReg.toNat), lstep := go,
               history := .ioRead (dataPort s.params) (s.configSpace.read .config s.idxReg.toNat) :: s.history }
  /-- R144 -/
  | portsReleased (phase : s.lstep = .prel) :
    LifecycleStep s
      { s with portsRsvd := false, dba := baseOf s.params.baseForm s.acc, lc := .windowAcquired, lstep := .rres,
               history := .env .releasePorts none :: s.history }
  /-- R145 -/
  | regionReserved (phase : s.lstep = .rres) (granted : s.inputs.answer = .ok) :
    LifecycleStep s
      { s with regionRsvd := true, lstep := .map,
               history := .env (.reserveRegion (windowBase s.dba) windowSize) (some .ok) :: s.history }
  /-- R146 -/
  | windowMapped (phase : s.lstep = .map) (granted : s.inputs.answer = .ok) :
    LifecycleStep s
      { s with mapped := true, lc := .banksRegistering, lstep := .reg0,
               history := .env (.map (windowBase s.dba) windowSize) (some .ok) :: s.history }
  /-- R146 -/
  | mapRefused {kind : FailKind} (phase : s.lstep = .map) (failed : s.inputs.answer = .fail kind) :
    LifecycleStep s
      { s with errk := Status.mappingFailure.code, lstep := .mfrel,
               history := .env (.map (windowBase s.dba) windowSize) (some (.fail kind)) :: s.history }
  /-- R147 -/
  | bankRegistered {b : Nat} {go : LStep} (phase : (s.lstep, b, go) ∈ [(.reg0, 0, .reg1), (.reg1, 1, .reg2)])
      (granted : s.inputs.answer = .ok) :
    LifecycleStep s
      { s with bankEn := s.bankEn.put b true, lstep := go,
               history := .env (.register b (bankBase b) (bankCount b)) (some .ok) :: s.history }
  /-- R147 -/
  | attachDone (phase : s.lstep = .reg2) (granted : s.inputs.answer = .ok) :
    LifecycleStep s
      { s with bankEn := s.bankEn.put 2 true, lc := .attached, lrsp := 0x00#8, lstep := .resp,
               history := .response .lifecycle 0x00#8 :: .env (.register 2 (bankBase 2) (bankCount 2)) (some .ok) :: s.history }
  /-- R147 -/
  | bankRefused {b : Nat} {back : LStep} {kind : FailKind}
      (phase : (s.lstep, b, back) ∈ [(.reg0, 0, .rbunmap), (.reg1, 1, .rbu0), (.reg2, 2, .rbu1)])
      (failed : s.inputs.answer = .fail kind) :
    LifecycleStep s
      { s with errk := (failStatus kind).code, lstep := back,
               history := .env (.register b (bankBase b) (bankCount b)) (some (.fail kind)) :: s.history }
  /-- R152 -/
  | drained (phase : s.lstep = .dwait) (quiet : ∀ (r : Nat) (q : Requester), s.reqs[r]? = some q → q.phase.busy = false) :
    LifecycleStep s { s with lstep := .unreg2 }
  /-- R149, R154 -/
  | bankUnregistered {b : Nat} {go : LStep}
      (phase : (s.lstep, b, go) ∈
        [(.rbu1, 1, .rbu0), (.rbu0, 0, .rbunmap), (.unreg2, 2, .unreg1), (.unreg1, 1, .unreg0), (.unreg0, 0, .unmap)]) :
    LifecycleStep s
      { s with bankEn := s.bankEn.put b false, lstep := go, history := .env (.unregister b) (some s.inputs.answer) :: s.history }
  /-- R149, R155 -/
  | windowUnmapped {go : LStep} (phase : (s.lstep, go) ∈ [(.rbunmap, .rbrrel), (.unmap, .rrel)]) :
    LifecycleStep s { s with mapped := false, lstep := go, history := .env .unmap none :: s.history }
  /-- R146, R150, R156 -/
  | regionReleased {code : BitVec 4}
      (phase : (s.lstep, code) ∈ [(.mfrel, s.errk), (.rbrrel, s.errk), (.rrel, Status.ok.code)]) :
    LifecycleStep s
      { s with regionRsvd := false, lc := .unattached, lrsp := responseWord false code, lstep := .resp,
               history := .response .lifecycle (responseWord false code) :: .env .releaseRegion none :: s.history }

section
variable {s u : State} {i : Instr}

/-- A recorded handshake, with the answer it was given. -/
theorem asked_of_answer {a : Answer} (request : EnvRequest) (h : s.inputs.answer = a) :
    asked request s = { s with history := .env request (some a) :: s.history } := by
  rw [asked, h]
  rfl

theorem LifecycleStep.of_reservePorts (hp : s.lstep = .pres) : LifecycleStep s (reservePorts s) := by
  cases ha : s.inputs.answer with
  | ok =>
    simp only [reservePorts, ha, asked_of_answer _ ha]
    exact .portsReserved hp ha
  | fail kind =>
    simp only [reservePorts, ha, asked_of_answer _ ha]
    exact .resourceRefused (by simp [hp]) ha

theorem LifecycleStep.of_writeLaneIndex {k : Nat} {go : LStep}
    (hp : (s.lstep, k, go) ∈ [(LStep.idx1, 1, LStep.dat1), (.idx2, 2, .dat2), (.idx3, 3, .dat3)])
    (h : writeLaneIndex k go s = .next u) : LifecycleStep s u := by
  obtain ⟨reserved, rfl⟩ := writeIndex_eq_next h
  exact .indexWritten hp reserved

theorem LifecycleStep.of_readData {go : LStep}
    (hp : (s.lstep, go) ∈ [(LStep.dat1, LStep.idx2), (.dat2, .idx3), (.dat3, .prel)]) (h : readData go s = .next u) :
    LifecycleStep s u := by
  obtain ⟨reserved, rfl⟩ := readData_eq_next h
  exact .dataRead hp reserved

theorem LifecycleStep.of_reserveRegion (hp : s.lstep = .rres) : LifecycleStep s (reserveRegion s) := by
  cases ha : s.inputs.answer with
  | ok =>
    simp only [reserveRegion, ha, asked_of_answer _ ha]
    exact .regionReserved hp ha
  | fail kind =>
    simp only [reserveRegion, ha, asked_of_answer _ ha]
    exact .resourceRefused (by simp [hp]) ha

theorem LifecycleStep.of_mapWindow (hp : s.lstep = .map) : LifecycleStep s (mapWindow s) := by
  cases ha : s.inputs.answer with
  | ok =>
    simp only [mapWindow, ha, asked_of_answer _ ha]
    exact .windowMapped hp ha
  | fail kind =>
    simp only [mapWindow, ha, asked_of_answer _ ha]
    exact .mapRefused hp ha

/-- The registration step of a bank, given what its granted branch is. -/
theorem LifecycleStep.of_registerBank {b : Nat} {next : State → State} {back : LStep}
    (hp : (s.lstep, b, back) ∈ [(LStep.reg0, 0, LStep.rbunmap), (.reg1, 1, .rbu0), (.reg2, 2, .rbu1)])
    (granted : s.inputs.answer = .ok → LifecycleStep s (next
      { s with bankEn := s.bankEn.put b true,
               history := .env (.register b (bankBase b) (bankCount b)) (some .ok) :: s.history })) :
    LifecycleStep s (registerBank b next back s) := by
  cases ha : s.inputs.answer with
  | ok =>
    simp only [registerBank, ha, asked_of_answer _ ha]
    exact granted ha
  | fail kind =>
    simp only [registerBank, ha, asked_of_answer _ ha]
    exact .bankRefused hp ha

theorem LifecycleStep.of_drain (hp : s.lstep = .dwait) : drain s = s ∨ LifecycleStep s (drain s) := by
  rcases drain_cases s with ⟨_, e⟩ | ⟨hq, e⟩ <;> rw [e]
  · exact .inl rfl
  · exact .inr (.drained hp hq)

/-- A step of `ATTACH` (R141 to R150). -/
theorem execAttach_cases (ht : s.turn = .lifecycle) (hw : s.lcmd = 0x8000#16) (h : execAttach s = .next u) :
    LifecycleStep s u := by
  rw [execAttach, onLifecycle_of_turn ht] at h
  cases hp : s.lstep <;> simp only [hp] at h
  case dec =>
    cases h
    split
    · exact .attachStarted hp hw ‹_›
    · exact .refused _ hp
  case pres => cases h; exact .of_reservePorts hp
  case idx1 => exact .of_writeLaneIndex (by simp [hp]) h
  case dat1 => exact .of_readData (by simp [hp]) h
  case idx2 => exact .of_writeLaneIndex (by simp [hp]) h
  case dat2 => exact .of_readData (by simp [hp]) h
  case idx3 => exact .of_writeLaneIndex (by simp [hp]) h
  case dat3 => exact .of_readData (by simp [hp]) h
  case prel => cases h; exact .portsReleased hp
  case rres => cases h; exact .of_reserveRegion hp
  case map => cases h; exact .of_mapWindow hp
  case mfrel => cases h; exact .regionReleased (by simp [hp])
  case reg0 => cases h; exact .of_registerBank (by simp [hp]) fun ha =>
    LifecycleStep.bankRegistered (b := 0) (go := .reg1) (by simp [hp]) ha
  case reg1 => cases h; exact .of_registerBank (by simp [hp]) fun ha =>
    LifecycleStep.bankRegistered (b := 1) (go := .reg2) (by simp [hp]) ha
  case reg2 => cases h; exact .of_registerBank (by simp [hp]) fun ha => .attachDone hp ha
  case rbu1 => cases h; exact .bankUnregistered (by simp [hp])
  case rbu0 => cases h; exact .bankUnregistered (by simp [hp])
  case rbunmap => cases h; exact .windowUnmapped (by simp [hp])
  case rbrrel => cases h; exact .regionReleased (by simp [hp])
  all_goals cases h

/-- A step of `DETACH` (R151 to R156). -/
theorem execDetach_cases (ht : s.turn = .lifecycle) (hw : s.lcmd = 0x9000#16) (h : execDetach s = .next u) :
    u = s ∨ LifecycleStep s u := by
  rw [execDetach, onLifecycle_of_turn ht] at h
  cases hp : s.lstep <;> simp only [hp] at h
  case dec =>
    cases h
    split
    · exact .inr (.detachStarted hp hw ‹_›)
    · exact .inr (.refused _ hp)
  case dwait => cases h; exact LifecycleStep.of_drain hp
  case unreg2 => cases h; exact .inr (.bankUnregistered (by simp [hp]))
  case unreg1 => cases h; exact .inr (.bankUnregistered (by simp [hp]))
  case unreg0 => cases h; exact .inr (.bankUnregistered (by simp [hp]))
  case unmap => cases h; exact .inr (.windowUnmapped (by simp [hp]))
  case rrel => cases h; exact .inr (.regionReleased (by simp [hp]))
  all_goals cases h

theorem onRequester_cases {k : Nat → Requester → Result} (ht : s.turn = .lifecycle) (h : onRequester s k = .next u) :
    LifecycleStep s u := by
  rcases onRequester_eq_next h with ⟨_, _, ht', _⟩ | ⟨_, hp, rfl⟩
  · rw [ht] at ht'; cases ht'
  · exact .refused _ hp

/-- The meaning of the lifecycle port's latched command holds, or is one of the steps listed. -/
theorem exec_cases_lifecycle (ht : s.turn = .lifecycle) (hd : decode s.lcmd = .ok i) (h : exec i s = .next u) :
    u = s ∨ LifecycleStep s u := by
  cases i with
  | get b n => exact .inr (onRequester_cases ht h)
  | set b n level => exact .inr (onRequester_cases ht h)
  | dirOut b n => exact .inr (onRequester_cases ht h)
  | dirIn b n => exact .inr (onRequester_cases ht h)
  | attach => exact .inr (execAttach_cases ht (eq_of_decode_attach hd) h)
  | detach => exact execDetach_cases ht (eq_of_decode_detach hd) h

end

/-! ## A step of the machine -/

/-- What one step of the agent whose turn it is can make of a state. -/
inductive AgentStep (s : State) : State → Prop
  | held : AgentStep s s
  | requester {r : Nat} {q : Requester} {u : State} (turn : s.turn = .requester r) (port : s.reqs[r]? = some q)
      (move : RequesterStep s r q u) : AgentStep s u
  | lifecycle {u : State} (turn : s.turn = .lifecycle) (move : LifecycleStep s u) : AgentStep s u
  /-- R24, R89 -/
  | other (turn : s.turn = .other) (free : s.portsRsvd = false) : AgentStep s { s with idxReg := s.inputs.index }

section
variable {s t u : State}

theorem AgentStep.of_exec {w : Command} {i : Instr} (hf : fetch s = some w) (hd : decode w = .ok i)
    (h : exec i s = .next u) : AgentStep s u := by
  rcases fetch_eq_some hf with ⟨r, q, ht, hq, _, _, rfl⟩ | ⟨ht, _, _, rfl⟩
  · rcases exec_cases_requester ht hq hd h with rfl | hm
    · exact .held
    · exact .requester ht hq hm
  · rcases exec_cases_lifecycle ht hd h with rfl | hm
    · exact .held
    · exact .lifecycle ht hm

theorem AgentStep.of_answerReserved (h : answerReserved s = .next u) : AgentStep s u := by
  rcases answerReserved_eq_next h with ⟨r, q, ht, hq, hp, rfl⟩ | ⟨ht, hp, rfl⟩
  · exact .requester ht hq (.of_raise _ hq hp)
  · exact .lifecycle ht (.refused _ hp)

theorem AgentStep.of_outsideStep (s : State) : AgentStep s (outsideStep s) := by
  rcases outsideStep_cases s with e | ⟨r, q, w, ht, hq, hp, _, e⟩ | ⟨r, q, ht, hq, hp, e⟩ | ⟨w, ht, hp, _, e⟩ | ⟨ht, hp, e⟩ |
      ⟨ht, hf, e⟩ <;> rw [e]
  · exact .held
  · rw [issue, State.modReq, modify_eq_set_of_getElem? _ hq]
    exact .requester ht hq (.issued w hp)
  · rw [takeResponse, State.setPhase, State.modReq, modify_eq_set_of_getElem? _ hq]
    exact .requester ht hq (.taken hp)
  · exact .lifecycle ht (.issued w hp)
  · exact .lifecycle ht (.taken hp)
  · exact .other ht hf

/-- A step of the machine is a step of the agent whose turn it is, and then the outside's choice of the next. -/
theorem step_cases (h : step s = .next t) : ∃ u, AgentStep s u ∧ t = u.draw := by
  rcases step_eq_next h with ⟨w, i, u, hf, hd, he, rfl⟩ | ⟨w, e, u, _, _, ha, rfl⟩ | ⟨_, rfl⟩
  · exact ⟨u, .of_exec hf hd he, rfl⟩
  · exact ⟨u, .of_answerReserved ha, rfl⟩
  · exact ⟨_, .of_outsideStep s, rfl⟩

end

end Sys2Proof.Machine

/-!
PROOFS, part 2. What no step changes, who writes the base, how the lifecycle state moves, and what single steps and bus accesses
do.
-/
namespace Sys2Proof.Machine

/-! ## What a step leaves unchanged -/

section
variable {s t u : State} {r : Nat} {q : Requester}

/-- A requester's step changes no field but its port's latches, the window, the lock and the history (R20, R178). -/
theorem RequesterStep.frame (h : RequesterStep s r q u) :
    u = { s with reqs := u.reqs, window := u.window, lockHeld := u.lockHeld, lockOwner := u.lockOwner, history := u.history } ∧
      ∃ q', u.reqs = s.reqs.set r q' := by
  cases h <;> exact ⟨rfl, _, rfl⟩

/-- A step of the lifecycle port touches no requester, no line register, no lock and no configuration (R153, R190). -/
theorem LifecycleStep.frame (h : LifecycleStep s u) :
    u.reqs = s.reqs ∧ u.window = s.window ∧ u.lockHeld = s.lockHeld ∧ u.lockOwner = s.lockOwner ∧ u.params = s.params ∧
      u.configSpace = s.configSpace := by
  cases h <;> exact ⟨rfl, rfl, rfl, rfl, rfl, rfl⟩

/-- The outside's choice changes nothing but the model's four fields for it (log entry 8). -/
theorem State.draw_eq (s : State) :
    s.draw = { s with turn := s.draw.turn, inputs := s.draw.inputs, script := s.draw.script, drawn := s.draw.drawn } := by
  unfold State.draw
  split <;> rfl

theorem AgentStep.configuration (h : AgentStep s u) :
    u.params = s.params ∧ u.configSpace = s.configSpace ∧ u.reqs.length = s.reqs.length := by
  cases h with
  | held => exact ⟨rfl, rfl, rfl⟩
  | other => exact ⟨rfl, rfl, rfl⟩
  | requester _ _ move =>
    obtain ⟨e, q', hr⟩ := move.frame
    exact ⟨by rw [e], by rw [e], by rw [hr, List.length_set]⟩
  | lifecycle _ move =>
    obtain ⟨hr, _, _, _, hp, hc⟩ := move.frame
    exact ⟨hp, hc, by rw [hr]⟩

end

/-- Settles O58: it holds of each agent's step. -/
theorem configurationIsConstant : Obligations.ConfigurationIsConstant := by
  intro s t h
  obtain ⟨u, hu, rfl⟩ := step_cases h
  simpa using hu.configuration

/-! ## The base -/

/-- Of the agents' steps the port release alone writes the base (R13, R144). -/
theorem AgentStep.dba_eq_or {s u : State} (h : AgentStep s u) :
    u.dba = s.dba ∨ LifecycleAt s .prel ∧ u.dba = baseOf s.params.baseForm s.acc := by
  cases h with
  | held => exact .inl rfl
  | other => exact .inl rfl
  | requester _ _ move => exact .inl (by rw [move.frame.1])
  | lifecycle turn move =>
    cases move with
    | portsReleased phase => exact .inr ⟨⟨turn, phase⟩, rfl⟩
    | _ => exact .inl rfl

/-- At the port release the accumulator holds the three lanes (R80, R144). -/
theorem Inv.acc_at_release {s : State} (h : Inv s) (hp : s.lstep = .prel) :
    s.acc = readBase s.params.laneOrder s.configSpace regOffset :=
  h.accumulated 3 (by rw [hp]; rfl)

/-- Settles O56, from the accumulator's invariant at the port release. -/
theorem baseIsWrittenAtPortReleaseOnly : Obligations.BaseIsWrittenAtPortReleaseOnly := by
  intro s t h changed
  obtain ⟨u, hu, rfl⟩ := step_cases h
  rw [State.draw_dba] at changed ⊢
  rcases hu.dba_eq_or with same | ⟨at_release, written⟩
  · exact absurd same changed
  · refine ⟨at_release, written, fun inv => ?_⟩
    rw [written, inv.acc_at_release at_release.2]
    rfl

/-! ## The lifecycle state -/

@[simp] theorem LcState.mayBecome_self (c : LcState) : c.mayBecome c = true := by cases c <;> rfl

/-- A step of the lifecycle sequencer moves the lifecycle state along R12's chain, from the states its phase stands in (R23). -/
theorem LifecycleStep.mayBecome {s u : State} (h : LifecycleStep s u) (hl : s.lstep.allows s.lc = true) :
    s.lc.mayBecome u.lc = true := by
  cases h with
  | attachStarted _ _ unattached => rw [unattached]; rfl
  | detachStarted _ _ attached => rw [attached]; rfl
  | resourceRefused phase =>
    simp only [List.mem_cons, Prod.mk.injEq, List.not_mem_nil, or_false] at phase
    rcases phase with ⟨phase, -⟩ | ⟨phase, -⟩ <;> simp only [phase, LStep.allows, beq_iff_eq] at hl <;> rw [hl] <;> rfl
  | portsReleased phase => simp only [phase, LStep.allows, beq_iff_eq] at hl; rw [hl]; rfl
  | windowMapped phase => simp only [phase, LStep.allows, beq_iff_eq] at hl; rw [hl]; rfl
  | attachDone phase => simp only [phase, LStep.allows, beq_iff_eq] at hl; rw [hl]; rfl
  | regionReleased phase =>
    simp only [List.mem_cons, Prod.mk.injEq, List.not_mem_nil, or_false] at phase
    rcases phase with ⟨phase, -⟩ | ⟨phase, -⟩ | ⟨phase, -⟩ <;> simp only [phase, LStep.allows, beq_iff_eq] at hl <;>
      rw [hl] <;> rfl
  | _ => exact LcState.mayBecome_self _

/-- Settles O55: only the lifecycle sequencer writes the lifecycle state. -/
theorem lifecycleMovesAlongTheChain : Obligations.LifecycleMovesAlongTheChain := by
  intro s t inv h
  obtain ⟨u, hu, rfl⟩ := step_cases h
  rw [State.draw_lc]
  cases hu with
  | held => exact LcState.mayBecome_self _
  | other => exact LcState.mayBecome_self _
  | requester _ _ move => rw [move.frame.1]; exact LcState.mayBecome_self _
  | lifecycle _ move => exact move.mayBecome inv.lifecycle

/-! ## Line registers -/

/-- Settles O3: the address resolves to the line's offset, and R26 is `State.readLine`. -/
theorem lineReadAnswersStoredBitsAndPad : Obligations.LineReadAnswersStoredBitsAndPad := by
  rintro s r b n k ⟨mapped, range⟩
  refine ⟨s.readLine (lineOffset b n), memRead_of_lineAt (lineAt_lineAddr mapped range), isInput_readLine s _, ?_, ?_, ?_⟩
  · exact outputLevel_withInputBit _ _
  · exact lowBits_withInputBit _ _
  · exact inputBit_withInputBit _ _

/-- Settles O4: the line's offset is written with the stored bits of the byte (R25, R27). -/
theorem lineWriteStoresAllButBitSeven : Obligations.LineWriteStoresAllButBitSeven := by
  rintro s r b n v ⟨mapped, range⟩
  have stored : (s.window.write .window (lineOffset b n) v).read .window (lineOffset b n) = Space.stored .window v :=
    Memory.read_write_same _ _ _ _
  refine ⟨_, memWrite_of_lineAt (lineAt_lineAddr mapped range), ?_, ?_, ?_, ?_, ?_, rfl⟩
  · exact (congrArg isInput stored).trans (isInput_stored v)
  · exact (congrArg outputLevel stored).trans (outputLevel_stored v)
  · exact (congrArg lowBits stored).trans (lowBits_stored v)
  · exact (congrArg (BitVec.getLsbD · 7) stored).trans (inputBit_stored v)
  · exact fun a other => Memory.read_write_other _ _ _ other

/-! ## Single steps -/

/-- A step on a latched command is the command's meaning, and then the outside's choice. -/
theorem step_of_fetch {s : State} {w : Command} {i : Instr} (hf : fetch s = some w) (hd : decode w = .ok i) :
    step s = thenDraw (exec i s) := by
  simp only [step, hf, hd]

/-- Settles O10. -/
theorem stepRunsTheLatchedCommand : Obligations.StepRunsTheLatchedCommand := by
  intro s w i hf hd
  refine ⟨step_of_fetch hf hd, fun t he => ⟨t.draw, ?_, t.draw_eq⟩⟩
  rw [step_of_fetch hf hd, he]
  rfl

/-- Settles O60: no word is fetched for another user of the port pair. -/
theorem otherUserWritesTheIndexOnlyWhenFree : Obligations.OtherUserWritesTheIndexOnlyWhenFree := by
  intro s turn
  have none_fetched : fetch s = none := by simp [fetch, turn]
  have moved : outsideStep s = otherUser s := by simp [outsideStep, turn]
  simp only [step, none_fetched, moved, otherUser]

end Sys2Proof.Machine

/-!
PROOFS, part 3. The invariant: every step of every agent keeps it. It has two parts, `LifecycleInv` on the lifecycle sequencer and
`PortsInv` on the requester ports, the lock and the window; a step of one sequencer leaves the other's part almost alone.
-/
namespace Sys2Proof.Machine

/-! ## The lifecycle sequencer's part -/

/-- The part of the invariant that speaks of the lifecycle sequencer and of what it holds. -/
structure LifecycleInv (s : State) : Prop where
  lifecycle : s.lstep.allows s.lc = true
  holds : s.holdings = s.lstep.holds s.lc
  latched : ∀ w, s.lstep.command = some w → s.lcmd = w
  aligned : s.lstep = .rres ∨ s.regionRsvd = true → s.dba.extractLsb' 0 8 = 0#8
  failing : s.lstep.failing = true → 1 ≤ s.errk.toNat ∧ s.errk.toNat ≤ 3
  answered : s.lstep = .resp → legalResponse s.lrsp = true
  indexed : ∀ k, s.lstep.dataLane = some k → s.idxReg = laneAddress s.params.laneOrder regOffset k
  accumulated : ∀ n, s.lstep.lanesDone = some n → s.acc = readLanes s.params.laneOrder s.configSpace regOffset n

section
variable {s u : State}

theorem Inv.lifecycleInv (h : Inv s) : LifecycleInv s :=
  ⟨h.lifecycle, h.holds, h.latched, h.aligned, h.failing, h.answered, h.indexed, h.accumulated⟩

/-- What a state holds, flag by flag. -/
theorem holdings_eq_iff {h : Holdings} :
    s.holdings = h ↔ s.portsRsvd = h.ports ∧ s.regionRsvd = h.region ∧ s.mapped = h.mapped ∧ s.bankEn = h.banks := by
  cases h
  simp [State.holdings]

/-- The ports are reserved while a lane is read (R80). -/
theorem holds_ports_of_dataLane {l : LStep} {lc : LcState} {k : Nat} (h : l.dataLane = some k) :
    (l.holds lc).ports = true := by
  revert h; cases l <;> simp [LStep.dataLane, LStep.holds, Holdings.plain]

/-- The codes of the source's three kinds (R161). -/
theorem failStatus_code_bounds (k : FailKind) :
    1 ≤ (failStatus k).code.toNat ∧ (failStatus k).code.toNat ≤ 3 := by
  cases k <;> decide

theorem legalResponse_of_le {code : BitVec 4} (h : code.toNat ≤ 6) : legalResponse (responseWord false code) = true := by
  revert code; decide

/-- A data step leaves the bytes of one lane more in the accumulator: the index register is at its own lane (R82, R84, R89). -/
theorem LifecycleInv.acc_after_data {n : Nat} (inv : LifecycleInv s) (h : s.lstep.dataLane = some (n + 1)) :
    accumulate s.acc (s.configSpace.read .config s.idxReg.toNat) =
      readLanes s.params.laneOrder s.configSpace regOffset (n + 1) := by
  obtain ⟨m, hm, hlt, hdone⟩ := lanesDone_of_dataLane h
  cases hm
  rw [inv.accumulated n hdone, inv.indexed _ h]
  exact accumulate_readLanes hlt

/-! One lemma for each field: the steps that write it or enter its phases come first, and in the other steps what it says of the
new phase it said of the old one. -/

namespace LifecycleStep

/-- R23: the new phase stands in the new lifecycle state. -/
theorem keeps_lifecycle (h : LifecycleStep s u) (inv : LifecycleInv s) : u.lstep.allows u.lc = true := by
  have hl := inv.lifecycle
  cases h <;> grind [LStep.allows]

/-- R30 (a) to (e), R141 to R156: the flags a step writes are the difference between what its two phases hold. -/
theorem keeps_holds (h : LifecycleStep s u) (inv : LifecycleInv s) : u.holdings = u.lstep.holds u.lc := by
  have hl := inv.lifecycle
  obtain ⟨ports, region, mapped, banks⟩ := holdings_eq_iff.mp inv.holds
  rw [holdings_eq_iff]
  cases h <;> grind [LStep.holds, LStep.allows, Holdings.plain, Holdings.window, BankFlags.put]

/-- R141, R151: the decode step enters a command's phases with that command's word. -/
theorem keeps_latched (h : LifecycleStep s u) (inv : LifecycleInv s) : ∀ w, u.lstep.command = some w → u.lcmd = w := by
  cases h with
  | attachStarted _ word => exact fun w hw => word.trans (Option.some.inj hw)
  | detachStarted _ word => exact fun w hw => word.trans (Option.some.inj hw)
  | issued => intro w hw; cases hw
  | _ => exact fun w hw => inv.latched w (by grind [LStep.command])

/-- R30 (h), R90: the port release writes an aligned base. -/
theorem keeps_aligned (h : LifecycleStep s u) (inv : LifecycleInv s) :
    u.lstep = .rres ∨ u.regionRsvd = true → u.dba.extractLsb' 0 8 = 0#8 := by
  cases h with
  | portsReleased => exact fun _ => baseOf_aligned _ _
  | _ => exact fun hu => inv.aligned (by grind)

/-- R146, R147: the rollback is entered with the code of a failure's kind. -/
theorem keeps_failing (h : LifecycleStep s u) (inv : LifecycleInv s) :
    u.lstep.failing = true → 1 ≤ u.errk.toNat ∧ u.errk.toNat ≤ 3 := by
  cases h with
  | mapRefused => exact fun _ => failStatus_code_bounds .mappingFailure
  | bankRefused => exact fun _ => failStatus_code_bounds _
  | _ => exact fun hu => inv.failing (by grind [LStep.failing])

/-- R64, R161: every word presented has a status of the source's kinds and no level. -/
theorem keeps_answered (h : LifecycleStep s u) (inv : LifecycleInv s) : u.lstep = .resp → legalResponse u.lrsp = true := by
  cases h with
  | refused e => exact fun _ => legalResponse_status e
  | resourceRefused => exact fun _ => legalResponse_status .resourceConflict
  | attachDone => exact fun _ => legalResponse_status .ok
  | regionReleased phase =>
    refine fun _ => legalResponse_of_le ?_
    simp only [List.mem_cons, Prod.mk.injEq, List.not_mem_nil, or_false] at phase
    rcases phase with ⟨phase, rfl⟩ | ⟨phase, rfl⟩ | ⟨_, rfl⟩
    · exact (inv.failing (by rw [phase]; rfl)).2.trans (by decide)
    · exact (inv.failing (by rw [phase]; rfl)).2.trans (by decide)
    · decide
  | _ => exact fun hu => absurd hu (by grind)

/-- R83: an index write leads to the data step of its own lane, and nothing else leads to a data step. -/
theorem keeps_indexed (h : LifecycleStep s u) :
    ∀ k, u.lstep.dataLane = some k → u.idxReg = laneAddress u.params.laneOrder regOffset k := by
  cases h with
  | indexWritten phase =>
    simp only [List.mem_cons, Prod.mk.injEq, List.not_mem_nil, or_false] at phase
    rcases phase with ⟨_, rfl, rfl⟩ | ⟨_, rfl, rfl⟩ | ⟨_, rfl, rfl⟩ <;> intro k hk <;> cases hk <;> rfl
  | _ => exact fun k hk => absurd hk (by grind [LStep.dataLane])

/-- R82, R84: the accumulator starts at 0 and takes one lane's byte in each data step. -/
theorem keeps_accumulated (h : LifecycleStep s u) (inv : LifecycleInv s) :
    ∀ n, u.lstep.lanesDone = some n → u.acc = readLanes u.params.laneOrder u.configSpace regOffset n := by
  cases h with
  | portsReserved => intro n hn; cases hn; rfl
  | dataRead phase =>
    simp only [List.mem_cons, Prod.mk.injEq, List.not_mem_nil, or_false] at phase
    rcases phase with ⟨phase, rfl⟩ | ⟨phase, rfl⟩ | ⟨phase, rfl⟩ <;> intro n hn <;> cases hn <;>
      exact inv.acc_after_data (by rw [phase]; rfl)
  | _ => exact fun n hn => inv.accumulated n (by grind [LStep.lanesDone])

/-- A step of the lifecycle port keeps the lifecycle part. -/
theorem keeps_lifecycleInv (h : LifecycleStep s u) (inv : LifecycleInv s) : LifecycleInv u :=
  ⟨h.keeps_lifecycle inv, h.keeps_holds inv, h.keeps_latched inv, h.keeps_aligned inv, h.keeps_failing inv,
    h.keeps_answered inv, h.keeps_indexed, h.keeps_accumulated inv⟩

end LifecycleStep

/-- A step of a requester touches no field of the lifecycle part. -/
theorem RequesterStep.keeps_lifecycleInv {r : Nat} {q : Requester} (h : RequesterStep s r q u) (inv : LifecycleInv s) :
    LifecycleInv u := by
  rw [h.frame.1]
  exact ⟨inv.lifecycle, inv.holds, inv.latched, inv.aligned, inv.failing, inv.answered, inv.indexed, inv.accumulated⟩

/-- Another user of the port pair cannot move the index register away from a lane that is being read (R89). -/
theorem LifecycleInv.of_index_written (inv : LifecycleInv s) (free : s.portsRsvd = false) (v : Byte) :
    LifecycleInv { s with idxReg := v } := by
  refine ⟨inv.lifecycle, inv.holds, inv.latched, inv.aligned, inv.failing, inv.answered, fun k hk => ?_, inv.accumulated⟩
  have reserved : s.portsRsvd = true := (holdings_eq_iff.mp inv.holds).1.trans (holds_ports_of_dataLane hk)
  rw [free] at reserved
  cases reserved

end

/-! ## The requester ports' part -/

/-- The part of the invariant that speaks of the requester ports, the lock and the window. -/
structure PortsInv (s : State) : Prop where
  fits : ∀ (r : Nat) (q : Requester), s.reqs[r]? = some q → q.fits
  gated : ∀ (r : Nat) (q : Requester), s.reqs[r]? = some q → q.phase.busy = true → s.lc = .attached ∨ s.lstep = .dwait
  owned : ∀ (r : Nat) (q : Requester), s.reqs[r]? = some q → q.phase.holdsLock = true → s.lockHeld = true ∧ s.lockOwner = r
  holder : s.lockHeld = true → ∃ q : Requester, s.reqs[s.lockOwner]? = some q ∧ q.phase.holdsLock = true
  fresh : ∀ (r : Nat) (q : Requester) (i : Instr) (b n : Nat), s.reqs[r]? = some q → q.phase.holdsByte = true →
    decode q.cmd = .ok i → lineOf i = some (b, n) → Space.stored .window q.reg = s.line (lineOffset b n)
  windowForm : Memory.wf .window s.window = true

theorem Inv.portsInv {s : State} (h : Inv s) : PortsInv s :=
  ⟨h.fits, h.gated, h.owned, h.holder, h.fresh, h.windowForm⟩

theorem inv_of_parts {s : State} (hl : LifecycleInv s) (hp : PortsInv s) (hc : Memory.wf .config s.configSpace = true) : Inv s :=
  { hl, hp with configForm := hc }

/-! ### What the phases and latches of a requester say -/

theorem Phase.busy_of_holdsLock {p : Phase} (h : p.holdsLock = true) : p.busy = true := by
  revert h; cases p <;> decide

theorem Phase.holdsLock_of_holdsByte {p : Phase} (h : p.holdsByte = true) : p.holdsLock = true := by
  revert h; cases p <;> decide

/-- A command is ready for a phase past the gate when it is of the phase's kind and names a line in range (R113). -/
theorem lineReady_iff {lock : Bool} {i : Instr} :
    lineReady lock i = true ↔ takesLock i = lock ∧ ∃ b n, lineOf i = some (b, n) ∧ inRange b n = true := by
  rw [lineReady, Bool.and_eq_true, beq_iff_eq]
  cases lineOf i with
  | none => simp
  | some l => obtain ⟨b, n⟩ := l; simp

/-- A command that fits a phase past the gate is ready for it (R20). -/
theorem inRange_of_fitsPhase {p : Phase} {i : Instr} {reg : Byte} {b n : Nat} (h : fitsPhase p i reg = true) (hb : p.busy = true)
    (hl : lineOf i = some (b, n)) : inRange b n = true := by
  have ready : lineReady (takesLock i) i = true := by
    cases p <;> simp_all [fitsPhase, lineReady, Phase.busy]
  obtain ⟨_, b', n', hl', hr⟩ := lineReady_iff.mp ready
  rw [hl] at hl'
  cases hl'
  exact hr

/-- After the locked read the command fits its next phase: the byte decides it (R117). -/
theorem fitsPhase_afterRead {i : Instr} (v : Byte) (h : lineReady true i = true) : fitsPhase (afterRead i v) i v = true := by
  unfold afterRead afterDirection
  split
  · simp_all [fitsPhase]
  · split
    · cases i <;> simp_all [fitsPhase, isSet, writesFrom]
    · simp_all [fitsPhase]

/-- After its direction write a `SET` finds an output byte (R122). -/
theorem fitsPhase_afterDirection {i : Instr} (v : Byte) (h : lineReady true i = true) :
    fitsPhase (afterDirection i) i (withDirection v (!writesFrom i)) = true := by
  unfold afterDirection
  split
  · cases i <;> simp_all [fitsPhase, isSet, writesFrom]
  · simp_all [fitsPhase]

/-- A requester past its gate fits if its command fits its phase. -/
theorem Requester.fits_of_busy {q : Requester} {i : Instr} (hd : decode q.cmd = .ok i) (hb : q.phase.busy = true)
    (hf : fitsPhase q.phase i q.reg = true) : q.fits :=
  And.intro (fun _ => ⟨i, hd, hf⟩) fun h => by rw [h] at hb; cases hb

/-- A requester in its response phase fits if its word is a response word. -/
theorem Requester.fits_of_resp {q : Requester} (hp : q.phase = .resp) (hw : legalResponse q.rsp = true) : q.fits :=
  And.intro (fun h => by rw [hp] at h; cases h) fun _ => hw

/-- An idle requester and one in its decode step fit. -/
theorem Requester.fits_of_waiting {q : Requester} (hb : q.phase.busy = false) (hp : q.phase ≠ .resp) : q.fits :=
  And.intro (fun h => by rw [hb] at h; cases h) fun h => absurd h hp

theorem Requester.fits.fitsPhase {q : Requester} {i : Instr} (h : q.fits) (hb : q.phase.busy = true) (hd : decode q.cmd = .ok i) :
    fitsPhase q.phase i q.reg = true := by
  obtain ⟨j, hj, hf⟩ := h.1 hb
  rw [hd] at hj
  cases hj
  exact hf

/-- What stands at a position of a list in which one position was set. -/
theorem getElem?_set_cases {l : List Requester} {r r' : Nat} {q p : Requester} (h : (l.set r q)[r']? = some p) :
    r' = r ∧ p = q ∨ r' ≠ r ∧ l[r']? = some p := by
  rw [List.getElem?_set] at h
  grind

/-! ### A step of one port -/

section
variable {s u : State} {r : Nat} {q q' : Requester} {hist : List Event}

/-- While the lock is free no port is between acquire and release. -/
theorem PortsInv.others_of_free (inv : PortsInv s) (free : s.lockHeld = false) {r' : Nat} {p : Requester}
    (hp : s.reqs[r']? = some p) : p.phase.holdsLock = false := by
  by_contra held
  rw [Bool.not_eq_false] at held
  have := (inv.owned r' p hp held).1
  rw [free] at this
  cases this

/-- While one port is between acquire and release no other is (R126). -/
theorem PortsInv.others_of_holder (inv : PortsInv s) (hq : s.reqs[r]? = some q) (hk : q.phase.holdsLock = true) {r' : Nat}
    {p : Requester} (hne : r' ≠ r) (hp : s.reqs[r']? = some p) : p.phase.holdsLock = false := by
  by_contra held
  rw [Bool.not_eq_false] at held
  exact hne ((inv.owned r' p hp held).2.symm.trans (inv.owned r q hq hk).2)

/-- A step of a port outside the lock, which leaves the lock and the window alone. -/
theorem PortsInv.of_set_unlocked (inv : PortsInv s) (hq : s.reqs[r]? = some q) (before : q.phase.holdsLock = false)
    (after : q'.phase.holdsLock = false) (fits : q'.fits)
    (gated : q'.phase.busy = true → s.lc = .attached ∨ s.lstep = .dwait) :
    PortsInv { s with reqs := s.reqs.set r q', history := hist } where
  fits r' p hp := by
    rcases getElem?_set_cases hp with ⟨rfl, rfl⟩ | ⟨_, hp⟩
    · exact fits
    · exact inv.fits r' p hp
  gated r' p hp := by
    rcases getElem?_set_cases hp with ⟨rfl, rfl⟩ | ⟨_, hp⟩
    · exact gated
    · exact inv.gated r' p hp
  owned r' p hp hk := by
    rcases getElem?_set_cases hp with ⟨rfl, rfl⟩ | ⟨_, hp⟩
    · rw [after] at hk; cases hk
    · exact inv.owned r' p hp hk
  holder held := by
    obtain ⟨p, hp, hk⟩ := inv.holder held
    have hne : r ≠ s.lockOwner := by
      rintro rfl
      rw [hq] at hp
      cases hp
      rw [before] at hk
      cases hk
    exact ⟨p, by rw [List.getElem?_set_ne hne]; exact hp, hk⟩
  fresh r' p i b n hp hb hd hl := by
    rcases getElem?_set_cases hp with ⟨rfl, rfl⟩ | ⟨_, hp⟩
    · rw [Phase.holdsLock_of_holdsByte hb] at after; cases after
    · exact inv.fresh r' p i b n hp hb hd hl
  windowForm := inv.windowForm

/-- A step of a port while no other port is between acquire and release: it may take or free the lock and write the window. -/
theorem PortsInv.of_set_locked {held : Bool} {owner : Nat} {w : Memory} (inv : PortsInv s) (hq : s.reqs[r]? = some q)
    (others : ∀ {r' : Nat} {p : Requester}, r' ≠ r → s.reqs[r']? = some p → p.phase.holdsLock = false)
    (lock : held = q'.phase.holdsLock) (mine : held = true → owner = r) (fits : q'.fits)
    (gated : s.lc = .attached ∨ s.lstep = .dwait)
    (fresh : q'.phase.holdsByte = true → ∀ i b n, decode q'.cmd = .ok i → lineOf i = some (b, n) →
      Space.stored .window q'.reg = w.read .window (lineOffset b n))
    (form : Memory.wf .window w = true) :
    PortsInv { s with reqs := s.reqs.set r q', lockHeld := held, lockOwner := owner, window := w, history := hist } where
  fits r' p hp := by
    rcases getElem?_set_cases hp with ⟨rfl, rfl⟩ | ⟨_, hp⟩
    · exact fits
    · exact inv.fits r' p hp
  gated _ _ _ _ := gated
  owned r' p hp hk := by
    rcases getElem?_set_cases hp with ⟨rfl, rfl⟩ | ⟨hne, hp⟩
    · exact ⟨lock.trans hk, mine (lock.trans hk)⟩
    · rw [others hne hp] at hk; cases hk
  holder is_held := by
    have hlt : r < s.reqs.length := (List.getElem?_eq_some_iff.mp hq).1
    refine ⟨q', ?_, lock.symm.trans is_held⟩
    rw [show owner = r from mine is_held]
    exact List.getElem?_set_self hlt
  fresh r' p i b n hp hb hd hl := by
    rcases getElem?_set_cases hp with ⟨rfl, rfl⟩ | ⟨hne, hp⟩
    · exact fresh hb i b n hd hl
    · have := Phase.holdsLock_of_holdsByte hb
      rw [others hne hp] at this
      cases this
  windowForm := form

/-- The address of the command of a requester past its gate resolves to the command's own line (R110, R111). -/
theorem PortsInv.offset_of_address {i : Instr} {b n o : Nat} (inv : PortsInv s) (hq : s.reqs[r]? = some q)
    (hb : q.phase.busy = true) (hd : decode q.cmd = .ok i) (hl : lineOf i = some (b, n))
    (ho : lineAt s (lineAddr s b n) = some o) : o = lineOffset b n := by
  have range := inRange_of_fitsPhase ((inv.fits r q hq).fitsPhase hb hd) hb hl
  rw [lineAt_lineAddr (lineAt_eq_some.mp ho).1 range] at ho
  exact (Option.some.inj ho).symm

/-- A window in its one form lists stored bits only. -/
theorem Memory.stored_of_find {sp : Space} {m : Memory} {a : Nat} {v : Byte} (hm : m.wf sp = true) (h : m.find a = some v) :
    sp.stored v = v := by
  simp only [Memory.wf, Bool.and_eq_true, List.all_eq_true] at hm
  have member : (a, v) ∈ m := by
    clear hm
    induction m with
    | nil => cases h
    | cons c rest ih =>
      obtain ⟨b, w⟩ := c
      rw [Memory.find] at h
      split at h
      · cases h; subst b; exact List.mem_cons_self
      · exact List.mem_cons_of_mem _ (ih h)
  simpa using (hm.2 (a, v) member).1.2

/-- A line register holds stored bits only (R25). -/
theorem stored_line (form : Memory.wf .window s.window = true) (o : Nat) : Space.stored .window (s.line o) = s.line o := by
  unfold State.line Memory.read
  cases h : Memory.find s.window o with
  | none => simp [Space.unlisted]
  | some v => exact Memory.stored_of_find form h

/-- The byte read of a line has the line's stored bits (R21, R26). -/
theorem stored_readLine (form : Memory.wf .window s.window = true) (o : Nat) :
    Space.stored .window (s.readLine o) = s.line o := by
  rw [State.readLine, stored_withInputBit, stored_line form]

theorem holdsLock_afterDirection (i : Instr) : (afterDirection i).holdsLock = true := by
  unfold afterDirection; split <;> rfl

theorem holdsLock_afterRead (i : Instr) (v : Byte) : (afterRead i v).holdsLock = true := by
  unfold afterRead
  split
  · rfl
  · exact holdsLock_afterDirection i

/-- A step of the lock's owner that keeps the lock, latches the line's byte and may write it. -/
theorem PortsInv.of_holder_step {i : Instr} {b n o : Nat} {v : Byte} {go : Phase} {w : Memory} (inv : PortsInv s)
    (hq : s.reqs[r]? = some q) (hk : q.phase.holdsLock = true) (hd : decode q.cmd = .ok i) (hl : lineOf i = some (b, n))
    (ho : lineAt s (lineAddr s b n) = some o) (hgo : go.holdsLock = true) (fits : fitsPhase go i v = true)
    (fresh : Space.stored .window v = w.read .window o) (form : Memory.wf .window w = true) :
    PortsInv { s with reqs := s.reqs.set r { q with reg := v, phase := go }, window := w, history := hist } := by
  obtain ⟨held, mine⟩ := inv.owned r q hq hk
  have offset : o = lineOffset b n := inv.offset_of_address hq (Phase.busy_of_holdsLock hk) hd hl ho
  refine inv.of_set_locked hq (inv.others_of_holder hq hk) (held.trans hgo.symm) (fun _ => mine)
    (Requester.fits_of_busy hd (Phase.busy_of_holdsLock hgo) fits) (inv.gated r q hq (Phase.busy_of_holdsLock hk)) ?_ form
  intro _ j b' n' hd' hl'
  rw [hd] at hd'
  cases hd'
  rw [hl] at hl'
  cases hl'
  rw [← offset]
  exact fresh

/-- A write step of the lock's owner. -/
theorem PortsInv.of_write_step {i : Instr} {b n o : Nat} {v : Byte} {go : Phase} (inv : PortsInv s)
    (hq : s.reqs[r]? = some q) (hk : q.phase.holdsLock = true) (hd : decode q.cmd = .ok i) (hl : lineOf i = some (b, n))
    (ho : lineAt s (lineAddr s b n) = some o) (hgo : go.holdsLock = true) (fits : fitsPhase go i v = true) :
    PortsInv { s with reqs := s.reqs.set r { q with reg := v, phase := go }, window := s.window.write .window o v,
                      history := hist } :=
  inv.of_holder_step hq hk hd hl ho hgo fits (Memory.read_write_same _ _ _ _).symm
    (Memory.write_wf v (lineAt_eq_some.mp ho).2.1 inv.windowForm)

/-- A step of a requester keeps the ports' part. -/
theorem RequesterStep.keeps_portsInv (h : RequesterStep s r q u) (hq : s.reqs[r]? = some q) (inv : PortsInv s) : PortsInv u := by
  have hfit := inv.fits r q hq
  have hgate := inv.gated r q hq
  cases h with
  | issued w phase =>
    exact inv.of_set_unlocked hq (by rw [phase]; rfl) rfl (Requester.fits_of_waiting rfl (by simp)) (by simp [Phase.busy])
  | taken phase =>
    exact inv.of_set_unlocked hq (by rw [phase]; rfl) rfl (Requester.fits_of_waiting rfl (by simp)) (by simp [Phase.busy])
  | refused e phase =>
    exact inv.of_set_unlocked hq (by rw [phase]; rfl) rfl (Requester.fits_of_resp rfl (legalResponse_status e))
      (by simp [Phase.busy])
  | admitted i b n phase decodes line attached range =>
    have ready : lineReady (takesLock i) i = true := lineReady_iff.mpr ⟨rfl, b, n, line, range⟩
    cases lock : takesLock i <;> rw [lock] at ready
    · exact inv.of_set_unlocked hq (by rw [phase]; rfl) rfl (Requester.fits_of_busy decodes rfl ready) fun _ => .inl attached
    · exact inv.of_set_unlocked hq (by rw [phase]; rfl) rfl (Requester.fits_of_busy decodes rfl ready) fun _ => .inl attached
  | answered b n o phase decodes address =>
    exact inv.of_set_unlocked hq (by rw [phase]; rfl) rfl (Requester.fits_of_resp rfl (legalResponse_level _))
      (by simp [Phase.busy])
  | acquired i phase decodes lock free =>
    have busy : q.phase.busy = true := by rw [phase]; rfl
    have ready : lineReady true i = true := by simpa [phase, fitsPhase] using hfit.fitsPhase busy decodes
    exact inv.of_set_locked hq (fun _ => inv.others_of_free free) rfl (fun _ => rfl)
      (Requester.fits_of_busy decodes rfl ready) (hgate busy) (by simp [Phase.holdsByte]) inv.windowForm
  | read i b n o phase decodes line lock address =>
    have busy : q.phase.busy = true := by rw [phase]; rfl
    have ready : lineReady true i = true := by simpa [phase, fitsPhase] using hfit.fitsPhase busy decodes
    exact inv.of_holder_step hq (by rw [phase]; rfl) decodes line address (holdsLock_afterRead i _)
      (fitsPhase_afterRead _ ready) (stored_readLine inv.windowForm o) inv.windowForm
  | directionWritten i b n o phase decodes line lock address =>
    have busy : q.phase.busy = true := by rw [phase]; rfl
    have fit := hfit.fitsPhase busy decodes
    simp only [phase, fitsPhase, Bool.and_eq_true] at fit
    exact inv.of_write_step hq (by rw [phase]; rfl) decodes line address (holdsLock_afterDirection i)
      (fitsPhase_afterDirection _ fit.1)
  | levelWritten b n level o phase decodes address =>
    have busy : q.phase.busy = true := by rw [phase]; rfl
    have fit := hfit.fitsPhase busy decodes
    simp only [phase, fitsPhase, Bool.and_eq_true] at fit
    exact inv.of_write_step hq (by rw [phase]; rfl) decodes rfl address rfl fit.1.1
  | released i phase decodes lock =>
    have holds : q.phase.holdsLock = true := by rw [phase]; rfl
    exact inv.of_set_locked hq (inv.others_of_holder hq holds) rfl (by simp)
      (Requester.fits_of_resp rfl (legalResponse_status .ok)) (hgate (Phase.busy_of_holdsLock holds))
      (by simp [Phase.holdsByte]) inv.windowForm

/-! ### A step of the lifecycle port -/

/-- The states in which a requester may be busy are not left while one is (R30 (g), R152): the sequencer leaves `Attached` for
the drain alone, and the drain waits. -/
theorem LifecycleStep.keeps_gated (h : LifecycleStep s u) (hl : s.lstep.allows s.lc = true) (inv : PortsInv s)
    (hq : s.reqs[r]? = some q) (hb : q.phase.busy = true) : u.lc = .attached ∨ u.lstep = .dwait := by
  have hg := inv.gated r q hq hb
  cases h with
  | detachStarted => exact .inr rfl
  | drained _ quiet => rw [quiet r q hq] at hb; cases hb
  | _ => grind [LStep.allows]

/-- A step of the lifecycle port keeps the ports' part. -/
theorem LifecycleStep.keeps_portsInv (h : LifecycleStep s u) (hl : s.lstep.allows s.lc = true) (inv : PortsInv s) :
    PortsInv u := by
  obtain ⟨reqs, window, held, owner, _, _⟩ := h.frame
  constructor
  case gated => rw [reqs]; exact fun r q hq hb => h.keeps_gated hl inv hq hb
  case fits => rw [reqs]; exact inv.fits
  case owned => rw [reqs, held, owner]; exact inv.owned
  case holder => rw [reqs, held, owner]; exact inv.holder
  case fresh => rw [reqs]; unfold State.line; rw [window]; exact inv.fresh
  case windowForm => rw [window]; exact inv.windowForm

end

/-! ## Every step -/

/-- A step of the agent whose turn it is keeps the invariant. -/
theorem AgentStep.keeps_inv {s u : State} (h : AgentStep s u) (inv : Inv s) : Inv u := by
  have config : Memory.wf .config u.configSpace = true := by rw [h.configuration.2.1]; exact inv.configForm
  cases h with
  | held => exact inv
  | requester _ port move =>
    exact inv_of_parts (move.keeps_lifecycleInv inv.lifecycleInv) (move.keeps_portsInv port inv.portsInv) config
  | lifecycle _ move =>
    exact inv_of_parts (move.keeps_lifecycleInv inv.lifecycleInv) (move.keeps_portsInv inv.lifecycle inv.portsInv) config
  | other _ free =>
    have ports := inv.portsInv
    exact inv_of_parts (inv.lifecycleInv.of_index_written free _)
      ⟨ports.fits, ports.gated, ports.owned, ports.holder, ports.fresh, ports.windowForm⟩ config

/-- The invariant does not speak of the outside's choices (log entry 8). -/
theorem Inv.with_choice {s : State} (h : Inv s) (turn : Turn) (inputs : Inputs) (script : List Move) (drawn : Nat) :
    Inv { s with turn := turn, inputs := inputs, script := script, drawn := drawn } :=
  ⟨h.lifecycle, h.holds, h.latched, h.aligned, h.failing, h.answered, h.indexed, h.accumulated, h.fits, h.gated, h.owned,
    h.holder, h.fresh, h.windowForm, h.configForm⟩

/-- Settles O47: it holds of each agent's step, and the outside's choice touches nothing the invariant speaks of. -/
theorem everyStepKeepsTheInvariant : Obligations.EveryStepKeepsTheInvariant := by
  intro s t inv h
  obtain ⟨u, hu, rfl⟩ := step_cases h
  rw [u.draw_eq]
  exact (hu.keeps_inv inv).with_choice _ _ _ _

end Sys2Proof.Machine

/-!
PROOFS, part 4. The invariant after reset and in every reachable state, and what it says in the words of R30.
-/
namespace Sys2Proof.Machine

/-! ## Reset and reachable states -/

/-- Ports that are all idle, with the lock free and nothing listed, meet the ports' part. -/
theorem portsInv_of_idle {s : State} (idle : ∀ (r : Nat) (q : Requester), s.reqs[r]? = some q → q.phase = .idle)
    (free : s.lockHeld = false) (empty : s.window = []) : PortsInv s where
  fits r q hq := Requester.fits_of_waiting (by rw [idle r q hq]; rfl) (by rw [idle r q hq]; decide)
  gated r q hq hb := by rw [idle r q hq] at hb; cases hb
  owned r q hq hk := by rw [idle r q hq] at hk; cases hk
  holder held := by rw [free] at held; cases held
  fresh r q i b n hq hb := by rw [idle r q hq] at hb; cases hb
  windowForm := by rw [empty]; rfl

/-- After reset every port is idle (R185). -/
theorem reset_reqs_idle {r : Nat} {q : Requester} (hq : State.reset.reqs[r]? = some q) : q.phase = .idle := by
  have member : q ∈ List.replicate Config.nreq Requester.reset := List.mem_of_getElem? hq
  rw [List.eq_of_mem_replicate member]
  rfl

/-- Settles O46: after reset the sequencer is idle and holds nothing, and every port is idle. -/
theorem resetMeetsTheInvariant : Obligations.ResetMeetsTheInvariant :=
  inv_of_parts
    { lifecycle := rfl
      holds := rfl
      latched := fun _ h => by cases h
      aligned := fun _ => rfl
      failing := fun h => by cases h
      answered := fun h => by cases h
      indexed := fun _ h => by cases h
      accumulated := fun _ h => by cases h }
    (portsInv_of_idle (fun _ _ => reset_reqs_idle) rfl rfl) rfl

/-- What every step keeps, every run keeps. -/
theorem run_keeps {M : Host.Core} {P : M.State → Prop} (kept : ∀ s t, P s → M.step s = .next t → P t) {k : Nat}
    {s t : M.State} (hs : P s) (h : M.run k s = .next t) : P t := by
  induction k generalizing s with
  | zero => cases h; exact hs
  | succ k ih =>
    rw [Host.Core.run] at h
    split at h
    next u hu => exact ih (kept s u hs hu) h
    all_goals cases h

/-- Every reachable state meets the invariant. -/
theorem inv_of_reachable {s : State} (h : Reachable s) : Inv s := by
  obtain ⟨k, first, script, hrun⟩ := h
  have start := resetMeetsTheInvariant.with_choice first.turn first.inputs script State.reset.drawn
  exact run_keeps (M := Sys2Proof.core) everyStepKeepsTheInvariant start hrun

/-! ## The invariants of R30 -/

section
variable {s : State}

/-- In `Unattached` the sequencer is between commands and holds nothing (R23, R141 to R156). -/
theorem holds_unattached {l : LStep} (h : l.allows .unattached = true) :
    l.holds .unattached = Holdings.plain false false ∧ l ≠ .dwait := by
  revert h; cases l <;> decide

/-- In `Attached` the sequencer is between commands and holds the window and the three banks. -/
theorem holds_attached {l : LStep} (h : l.allows .attached = true) : l.holds .attached = Holdings.window true true true := by
  revert h; cases l <;> decide

/-- The ports are reserved in phases of discovery alone (R80, R142 to R144). -/
theorem discovering_of_ports {l : LStep} {lc : LcState} (h : l.allows lc = true) (hp : (l.holds lc).ports = true) :
    lc = .discovering := by
  cases l <;> simp_all [LStep.allows, LStep.holds, Holdings.plain, Holdings.window]
  all_goals split at hp <;> cases hp

/-- What is mapped is reserved, and a bank is enabled only in a mapped window, in every phase. -/
theorem holds_nested (l : LStep) (lc : LcState) :
    ((l.holds lc).mapped = true → (l.holds lc).region = true) ∧
      ((l.holds lc).banks.b0 = true ∨ (l.holds lc).banks.b1 = true ∨ (l.holds lc).banks.b2 = true →
        (l.holds lc).mapped = true) := by
  by_cases attached : lc = .attached <;> cases l <;> simp [LStep.holds, Holdings.plain, Holdings.window, attached]

theorem Inv.mapped_region (inv : Inv s) (h : s.mapped = true) : s.regionRsvd = true := by
  obtain ⟨_, region, mapped, _⟩ := holdings_eq_iff.mp inv.holds
  rw [region]
  exact (holds_nested _ _).1 (mapped.symm.trans h)

/-- In `Unattached` no requester is busy (R30 (a), (g)). -/
theorem Inv.not_busy_of_unattached (inv : Inv s) (hc : s.lc = .unattached) {r : Nat} {q : Requester} (hq : s.reqs[r]? = some q) :
    q.phase.busy = false := by
  by_contra busy
  rw [Bool.not_eq_false] at busy
  have lifecycle := inv.lifecycle
  rw [hc] at lifecycle
  rcases inv.gated r q hq busy with attached | waiting
  · rw [hc] at attached; cases attached
  · exact (holds_unattached lifecycle).2 waiting

/-- While no requester is busy the lock is free. -/
theorem Inv.lock_free_of_not_busy (inv : Inv s)
    (quiet : ∀ (r : Nat) (q : Requester), s.reqs[r]? = some q → q.phase.busy = false) : s.lockHeld = false := by
  by_contra held
  rw [Bool.not_eq_false] at held
  obtain ⟨q, hq, hk⟩ := inv.holder held
  have := Phase.busy_of_holdsLock hk
  rw [quiet _ q hq] at this
  cases this

/-- The lock is held exactly while there is one requester between acquire and release (R30 (f)). -/
theorem Inv.lockHeld_iff (inv : Inv s) :
    s.lockHeld = true ↔ ∃! r : Nat, ∃ q : Requester, s.reqs[r]? = some q ∧ q.phase.holdsLock = true := by
  constructor
  · intro held
    refine ⟨s.lockOwner, inv.holder held, ?_⟩
    rintro r ⟨q, hq, hk⟩
    exact (inv.owned r q hq hk).2.symm
  · rintro ⟨r, ⟨q, hq, hk⟩, _⟩
    exact (inv.owned r q hq hk).1

/-- While a requester is busy the window is mapped (R30 (g)). -/
theorem Inv.mapped_of_busy (inv : Inv s) {r : Nat} {q : Requester} (hq : s.reqs[r]? = some q) (hb : q.phase.busy = true) :
    (s.lc = .attached ∨ s.lc = .detaching) ∧ s.mapped = true := by
  have lifecycle := inv.lifecycle
  obtain ⟨_, _, mapped, _⟩ := holdings_eq_iff.mp inv.holds
  rcases inv.gated r q hq hb with attached | waiting
  · rw [attached] at lifecycle mapped
    rw [holds_attached lifecycle] at mapped
    exact ⟨.inl attached, mapped⟩
  · rw [waiting] at lifecycle mapped
    exact ⟨.inr (eq_of_beq lifecycle), mapped⟩

/-- The invariant gives R30's own eight. -/
theorem Inv.specInvariants (inv : Inv s) : SpecInvariants s := by
  have lifecycle := inv.lifecycle
  obtain ⟨ports, region, mapped, banks⟩ := holdings_eq_iff.mp inv.holds
  constructor
  case a =>
    intro hc
    have quiet := fun r q hq => inv.not_busy_of_unattached hc (r := r) (q := q) hq
    rw [hc] at lifecycle ports region mapped banks
    rw [(holds_unattached lifecycle).1] at ports region mapped banks
    exact ⟨ports, region, mapped, banks, inv.lock_free_of_not_busy quiet, quiet⟩
  case b =>
    intro hc
    rw [hc] at lifecycle ports region mapped banks
    rw [holds_attached lifecycle] at ports region mapped banks
    exact ⟨ports, region, mapped, banks⟩
  case c => exact fun h => discovering_of_ports lifecycle (ports.symm.trans h)
  case d => exact inv.mapped_region
  case e =>
    rw [banks, mapped]
    exact (holds_nested _ _).2
  case f => exact ⟨inv.lockHeld_iff, fun r q hq hk => (inv.owned r q hq hk).2⟩
  case g => exact fun r q hq hb => inv.mapped_of_busy hq hb
  case h => exact fun h => inv.aligned (.inr (inv.mapped_region h))

end

/-- Settles O49: a reachable state meets the invariant, since reset does and every step keeps it. -/
theorem invariantGivesSpecInvariants : Obligations.InvariantGivesSpecInvariants :=
  ⟨fun _ => Inv.specInvariants, fun _ h => (inv_of_reachable h).specInvariants⟩

end Sys2Proof.Machine

/-!
PROOFS, part 5. The window and its accesses: where the lines stand in it, how it is aligned, who writes a line register, and that
no step from a state of the invariant makes an access that is a fault of the model.
-/
namespace Sys2Proof.Machine

/-! ## The lines of the window -/

/-- The lines of the three banks (R66, R111). -/
theorem inRange_iff {b n : Nat} : inRange b n = true ↔ b = 0 ∧ n < 68 ∨ b = 1 ∧ n < 23 ∨ b = 2 ∧ n < 69 := by
  match b with
  | 0 => simp [inRange, bankCount]
  | 1 => simp [inRange, bankCount]
  | 2 => simp [inRange, bankCount]
  | b + 3 => simp [inRange, bankCount]

/-- The banks' offsets do not overlap, so a global number names the one line whose offset it is (R73). -/
theorem globalLine_eq_some_iff {g b n : Nat} : globalLine g = some (b, n) ↔ inRange b n = true ∧ lineOffset b n = g := by
  rw [inRange_iff]
  constructor
  · intro h
    unfold globalLine at h
    split_ifs at h <;> cases h <;> simp [lineOffset, bankBase] <;> omega
  · rintro ⟨⟨rfl, hn⟩ | ⟨rfl, hn⟩ | ⟨rfl, hn⟩, rfl⟩
    · simp [globalLine, lineOffset, bankBase, hn]
    · have place : ¬ 128 + n < 68 ∧ 128 + n < 151 := by omega
      simp [globalLine, lineOffset, bankBase, place]
    · have place : ¬ 160 + n < 68 ∧ ¬ 160 + n < 151 ∧ 160 + n < 229 := by omega
      simp [globalLine, lineOffset, bankBase, place]

/-- Different lines have different offsets: the offset, as a global number, names the line. -/
theorem line_eq_of_lineOffset_eq {b n b' n' : Nat} (h : inRange b n = true) (h' : inRange b' n' = true)
    (same : lineOffset b n = lineOffset b' n') : b = b' ∧ n = n' := by
  have named := globalLine_eq_some_iff.mpr ⟨h, same⟩
  rw [globalLine_eq_some_iff.mpr ⟨h', rfl⟩] at named
  cases named
  exact ⟨rfl, rfl⟩

/-- A line's address is its offset above the window's base, at every base (R110). -/
theorem lineAddr_sub_windowBase (s : State) {b n : Nat} (h : inRange b n = true) :
    (lineAddr s b n - windowBase s.dba).toNat = lineOffset b n := by
  have small := le_of_hasLine (hasLine_of_inRange h)
  rw [lineAddr, BitVec.add_comm, BitVec.add_sub_cancel, BitVec.toNat_ofNat]
  exact Nat.mod_eq_of_lt (by omega)

/-- Settles O9. -/
theorem linesHaveDistinctAddressesInTheWindow : Obligations.LinesHaveDistinctAddressesInTheWindow := by
  refine ⟨fun s b n b' n' h h' => ?_, fun g b n => globalLine_eq_some_iff⟩
  have line := hasLine_of_inRange h
  exact ⟨le_of_hasLine line, line, lineAddr_sub_windowBase s h, line_eq_of_lineOffset_eq h h'⟩

/-! ## Alignment -/

/-- An address is aligned to 256 when its low byte is zero. -/
theorem lowByte_eq_zero_iff {a : Addr} : a.extractLsb' 0 8 = 0#8 ↔ a.toNat % 256 = 0 := by
  rw [← BitVec.toNat_inj]
  simp

/-- The window stands 256 above the base, so it is as aligned (R91). -/
theorem windowBase_aligned {dba : Addr} (h : dba.extractLsb' 0 8 = 0#8) : (windowBase dba).extractLsb' 0 8 = 0#8 := by
  rw [lowByte_eq_zero_iff] at h ⊢
  rw [windowBase, windowOffset, BitVec.toNat_add, BitVec.toNat_ofNat]
  omega

/-- From an aligned address the next 256 bytes do not wrap: the address is at most `2 ^ 32 - 256`. -/
theorem toNat_add_of_aligned {a : Addr} {o : Nat} (h : a.extractLsb' 0 8 = 0#8) (ho : o < 256) :
    (a + BitVec.ofNat 32 o).toNat = a.toNat + o := by
  rw [lowByte_eq_zero_iff] at h
  have bound := a.isLt
  rw [BitVec.toNat_add, BitVec.toNat_ofNat]
  omega

/-- Settles O35. -/
theorem windowIsAlignedAndDoesNotWrap : Obligations.WindowIsAlignedAndDoesNotWrap := by
  intro form v
  have base := baseOf_aligned form v
  have window := windowBase_aligned base
  exact ⟨base, window, fun _ ho => toNat_add_of_aligned window ho⟩

/-! ## Who writes a line register -/

section
variable {s u : State} {r : Nat} {q : Requester}

/-- Of a requester's steps the two write steps alone write the window (R121 to R123). -/
theorem RequesterStep.window_eq_or (h : RequesterStep s r q u) :
    u.window = s.window ∨ q.phase = .w1 ∨ q.phase = .w2 := by
  cases h with
  | directionWritten _ _ _ _ phase => exact .inr (.inl phase)
  | levelWritten _ _ _ _ phase => exact .inr (.inr phase)
  | _ => exact .inl rfl

/-- Of the agents' steps a requester's write steps alone write the window (R47). -/
theorem AgentStep.window_eq_or (h : AgentStep s u) :
    u.window = s.window ∨
      ∃ (r : Nat) (q : Requester), s.turn = .requester r ∧ s.reqs[r]? = some q ∧ (q.phase = .w1 ∨ q.phase = .w2) := by
  cases h with
  | held => exact .inl rfl
  | other => exact .inl rfl
  | lifecycle _ move => exact .inl move.frame.2.1
  | requester turn port move => exact move.window_eq_or.imp_right fun writes => ⟨_, _, turn, port, writes⟩

end

/-- Settles O51: the write steps are steps of the lock's holder, and the window of a busy requester is mapped. -/
theorem onlyTheLockHolderWrites : Obligations.OnlyTheLockHolderWrites := by
  intro s t a inv h changed
  obtain ⟨u, hu, rfl⟩ := step_cases h
  rcases hu.window_eq_or with same | ⟨r, q, turn, port, writes⟩
  · exact absurd (by rw [State.line, State.draw_window, same, State.line]) changed
  · have holds : q.phase.holdsLock = true := by rcases writes with phase | phase <;> rw [phase] <;> rfl
    obtain ⟨held, owner⟩ := inv.owned r q port holds
    have mapped := (inv.mapped_of_busy port (Phase.busy_of_holdsLock holds)).2
    exact ⟨r, q, turn, port, writes, held, owner, mapped⟩

/-! ## Every step answers -/

/-- An operation answers a next state: it neither faults nor refuses. -/
def Answers (o : Result) : Prop := ∃ t, o = .next t

@[simp] theorem answers_next (t : State) : Answers (.next t) := ⟨t, rfl⟩

theorem Answers.thenDraw {o : Result} (h : Answers o) : Answers (thenDraw o) := by
  obtain ⟨t, rfl⟩ := h
  exact answers_next _

/-- A step on a latched reserved word refuses it, and then the outside chooses (R69). -/
theorem step_of_reserved {s : State} {w : Command} {e : Reserved} (hf : fetch s = some w) (hd : decode w = .error e) :
    step s = thenDraw (answerReserved s) := by
  simp only [step, hf, hd]

/-! ### The accesses that could fault -/

section
variable {s : State}

theorem answers_writeIndex (v : Byte) (go : LStep) (reserved : s.portsRsvd = true) : Answers (writeIndex v go s) := by
  rw [writeIndex, if_pos reserved]
  exact answers_next _

theorem answers_readData (go : LStep) (reserved : s.portsRsvd = true) : Answers (readData go s) := by
  rw [readData, if_pos reserved]
  exact answers_next _

section
variable {b n : Nat} (r : Nat) (usable : LineUsable s b n)
include usable

theorem answers_readUnlocked : Answers (readUnlocked r b n s) := by
  rw [readUnlocked, memRead_of_lineAt (lineAt_lineAddr usable.1 usable.2)]
  exact answers_next _

theorem answers_readLocked (go : Byte → Phase) : Answers (readLocked r b n go s) := by
  rw [readLocked, memRead_of_lineAt (lineAt_lineAddr usable.1 usable.2)]
  exact answers_next _

/-- The write step first changes the port's own latches, which moves no line. -/
theorem answers_writeBack (v : Byte) (go : Phase) : Answers (writeBack r b n v go s) := by
  have address : lineAt (s.modReq r fun q => { q with reg := v, phase := go }) (lineAddr s b n) = some (lineOffset b n) :=
    lineAt_lineAddr (s := s.modReq r _) usable.1 usable.2
  rw [writeBack, memWrite_of_lineAt address]
  exact answers_next _

end

/-! ### A requester's sequencer -/

section
variable {r : Nat} {q : Requester} {i : Instr}

/-- At its decode step a requester answers every command, of its own class or not (R69, R113). -/
theorem answers_exec_requester_dec (i : Instr) (ht : s.turn = .requester r) (hq : s.reqs[r]? = some q)
    (hp : q.phase = .dec) : Answers (exec i s) := by
  cases i with
  | get b n => rw [exec, execGet, onRequester_of_turn ht hq, hp]; exact answers_next _
  | set b n level => rw [exec, execSet, onRequester_of_turn ht hq, hp]; exact answers_next _
  | dirOut b n => rw [exec, execDirOut, directionStep, onRequester_of_turn ht hq, hp]; exact answers_next _
  | dirIn b n => rw [exec, execDirIn, directionStep, onRequester_of_turn ht hq, hp]; exact answers_next _
  | attach => simp [exec, execAttach, onLifecycle, ht, hq, hp]
  | detach => simp [exec, execDetach, onLifecycle, ht, hq, hp]

/-- `DIR_IN` and `DIR_OUT` have a step in each phase under the lock and before it but the level write (R117 to R119). -/
theorem answers_directionStep {input : Bool} {b n : Nat} (ht : s.turn = .requester r) (hq : s.reqs[r]? = some q)
    (usable : LineUsable s b n) (hp : q.phase ∈ [Phase.acq, .rdl, .w1, .rel]) : Answers (directionStep input b n s) := by
  rw [directionStep, onRequester_of_turn ht hq]
  simp only [List.mem_cons, List.not_mem_nil, or_false] at hp
  rcases hp with hp | hp | hp | hp <;> rw [hp]
  · exact answers_next _
  · exact answers_readLocked r usable _
  · exact answers_writeBack r usable _ _
  · exact answers_next _

theorem answers_execGet {b n : Nat} (ht : s.turn = .requester r) (hq : s.reqs[r]? = some q)
    (usable : LineUsable s b n) (hp : q.phase = .rdu) : Answers (execGet b n s) := by
  rw [execGet, onRequester_of_turn ht hq, hp]
  exact answers_readUnlocked r usable

theorem answers_execSet {b n : Nat} {level : Bool} (ht : s.turn = .requester r) (hq : s.reqs[r]? = some q)
    (usable : LineUsable s b n) (hp : q.phase ∈ [Phase.acq, .rdl, .w1, .w2, .rel]) : Answers (execSet b n level s) := by
  rw [execSet, onRequester_of_turn ht hq]
  simp only [List.mem_cons, List.not_mem_nil, or_false] at hp
  rcases hp with hp | hp | hp | hp | hp <;> rw [hp]
  · exact answers_next _
  · exact answers_readLocked r usable _
  · exact answers_writeBack r usable _ _
  · exact answers_writeBack r usable _ _
  · exact answers_next _

/-- The phases past the gate in which a command has a step (R114, R117 to R120); a lifecycle command is never past it. -/
def phasesPastGate : Instr → List Phase
  | .get _ _ => [.rdu]
  | .set _ _ _ => [.acq, .rdl, .w1, .w2, .rel]
  | .dirOut _ _ | .dirIn _ _ => [.acq, .rdl, .w1, .rel]
  | .attach | .detach => []

/-- A command fits no other phase past the gate (R20). -/
theorem mem_phasesPastGate {p : Phase} {reg : Byte} (hb : p.busy = true) (hf : fitsPhase p i reg = true) :
    p ∈ phasesPastGate i := by
  cases i <;> cases p <;> simp_all [phasesPastGate, fitsPhase, lineReady, takesLock, lineOf, isSet, Phase.busy]

/-- A command that fits a phase past the gate names a line in range (R111, R113). -/
theorem exists_line_of_fitsPhase {p : Phase} {reg : Byte} (hb : p.busy = true) (hf : fitsPhase p i reg = true) :
    ∃ b n, lineOf i = some (b, n) ∧ inRange b n = true := by
  cases hl : lineOf i with
  | some line => exact ⟨_, _, rfl, inRange_of_fitsPhase hf hb hl⟩
  | none => cases p <;> simp_all [fitsPhase, lineReady, Phase.busy]

/-- Past its gate a requester's command has a step of the phase it is in, on a line that is mapped (R20, R46, R47). -/
theorem answers_exec_requester_busy (ht : s.turn = .requester r) (hq : s.reqs[r]? = some q) (hb : q.phase.busy = true)
    (mapped : s.mapped = true) (hf : fitsPhase q.phase i q.reg = true) : Answers (exec i s) := by
  have phase := mem_phasesPastGate hb hf
  obtain ⟨b, n, line, range⟩ := exists_line_of_fitsPhase hb hf
  have usable : LineUsable s b n := ⟨mapped, range⟩
  cases i <;> cases line
  case get => exact answers_execGet ht hq usable (List.mem_singleton.mp phase)
  case set => exact answers_execSet ht hq usable phase
  case dirOut => exact answers_directionStep ht hq usable phase
  case dirIn => exact answers_directionStep ht hq usable phase

/-- A requester's step on its latched word answers: at decode whatever the word is, past the gate since the invariant fits the
command to its phase and keeps the window mapped (R30 (g), R69). -/
theorem answers_step_requester (inv : Inv s) (ht : s.turn = .requester r) (hq : s.reqs[r]? = some q)
    (idle : q.phase ≠ .idle) (resp : q.phase ≠ .resp) : Answers (step s) := by
  have fetched : fetch s = some q.cmd := by simp [fetch, ht, hq, idle, resp]
  cases busy : q.phase.busy with
  | true =>
    obtain ⟨i, hd, hf⟩ := (inv.fits r q hq).1 busy
    rw [step_of_fetch fetched hd]
    exact (answers_exec_requester_busy ht hq busy (inv.mapped_of_busy hq busy).2 hf).thenDraw
  | false =>
    have hp : q.phase = .dec := by revert busy idle resp; cases q.phase <;> decide
    cases hd : decode q.cmd with
    | ok i =>
      rw [step_of_fetch fetched hd]
      exact (answers_exec_requester_dec i ht hq hp).thenDraw
    | error e =>
      have refused : answerReserved s = .next (raise (.requester r) .invalidCommand s) := by
        simp [answerReserved, ht, hq, hp]
      rw [step_of_reserved fetched hd, refused]
      exact answers_next _

end

/-! ### The lifecycle sequencer -/

/-- At its decode step the lifecycle port answers every command, of its own class or not (R69, R141, R151). -/
theorem answers_exec_lifecycle_dec (i : Instr) (ht : s.turn = .lifecycle) (hp : s.lstep = .dec) : Answers (exec i s) := by
  cases i with
  | get b n => simp [exec, execGet, onRequester, ht, hp]
  | set b n level => simp [exec, execSet, onRequester, ht, hp]
  | dirOut b n => simp [exec, execDirOut, directionStep, onRequester, ht, hp]
  | dirIn b n => simp [exec, execDirIn, directionStep, onRequester, ht, hp]
  | attach => rw [exec, execAttach, onLifecycle_of_turn ht, hp]; exact answers_next _
  | detach => rw [exec, execDetach, onLifecycle_of_turn ht, hp]; exact answers_next _

/-- `ATTACH` has a step in each of its phases: the six accesses find the ports reserved, the others are handshakes (R143). -/
theorem answers_execAttach (ht : s.turn = .lifecycle) (hp : s.lstep.command = some 0x8000#16)
    (reserved : s.lstep.lanesDone ≠ none → s.portsRsvd = true) : Answers (execAttach s) := by
  rw [execAttach, onLifecycle_of_turn ht]
  cases hl : s.lstep <;> rw [hl] at hp reserved
  case idx1 | idx2 | idx3 => exact answers_writeIndex _ _ (reserved (by decide))
  case dat1 | dat2 | dat3 => exact answers_readData _ (reserved (by decide))
  case idle | dec | resp | dwait | unreg2 | unreg1 | unreg0 | unmap | rrel => exact absurd hp (by decide)
  all_goals exact answers_next _

/-- `DETACH` has a step in each of its phases; none of them is an access (R152 to R156). -/
theorem answers_execDetach (ht : s.turn = .lifecycle) (hp : s.lstep.command = some 0x9000#16) : Answers (execDetach s) := by
  rw [execDetach, onLifecycle_of_turn ht]
  cases hl : s.lstep <;> rw [hl] at hp
  case dwait | unreg2 | unreg1 | unreg0 | unmap | rrel => exact answers_next _
  all_goals exact absurd hp (by decide)

/-- The ports are held from their reservation to their release (R16, R80). -/
theorem holds_ports_of_lanesDone {l : LStep} {lc : LcState} (h : l.lanesDone ≠ none) : (l.holds lc).ports = true := by
  revert h; cases l <;> simp [LStep.lanesDone, LStep.holds, Holdings.plain]

/-- A phase of the lifecycle sequencer is one that waits, decode, or one of a latched lifecycle command (R23). -/
theorem LStep.command_eq_or {l : LStep} (idle : l ≠ .idle) (dec : l ≠ .dec) (resp : l ≠ .resp) :
    l.command = some 0x8000#16 ∨ l.command = some 0x9000#16 := by
  revert idle dec resp; cases l <;> decide

/-- The lifecycle port's step on its latched word answers: at decode whatever the word is, past it since the invariant keeps the
phase's own command latched and the ports reserved over the lane accesses (R30 (c), R69). -/
theorem answers_step_lifecycle (inv : Inv s) (ht : s.turn = .lifecycle) (idle : s.lstep ≠ .idle) (resp : s.lstep ≠ .resp) :
    Answers (step s) := by
  have fetched : fetch s = some s.lcmd := by simp [fetch, ht, idle, resp]
  by_cases hp : s.lstep = .dec
  · cases hd : decode s.lcmd with
    | ok i =>
      rw [step_of_fetch fetched hd]
      exact (answers_exec_lifecycle_dec i ht hp).thenDraw
    | error e =>
      have refused : answerReserved s = .next (raise .lifecycle .invalidCommand s) := by simp [answerReserved, ht, hp]
      rw [step_of_reserved fetched hd, refused]
      exact answers_next _
  · rcases LStep.command_eq_or idle hp resp with attach | detach
    · have hd : decode s.lcmd = .ok .attach := by rw [inv.latched _ attach]; decide
      have reserved := fun h => (holdings_eq_iff.mp inv.holds).1.trans (holds_ports_of_lanesDone h)
      rw [step_of_fetch fetched hd]
      exact (answers_execAttach ht attach reserved).thenDraw
    · have hd : decode s.lcmd = .ok .detach := by rw [inv.latched _ detach]; decide
      rw [step_of_fetch fetched hd]
      exact (answers_execDetach ht detach).thenDraw

end

/-- Settles O48: a step that runs no command always answers, and the two sequencers' steps do from the invariant. -/
theorem theMachineNeverStops : Obligations.TheMachineNeverStops := by
  intro s inv
  show Answers (step s)
  cases fetched : fetch s with
  | none =>
    rw [step, fetched]
    exact answers_next _
  | some w =>
    rcases fetch_eq_some fetched with ⟨r, q, ht, hq, idle, resp, _⟩ | ⟨ht, idle, resp, _⟩
    · exact answers_step_requester inv ht hq idle resp
    · exact answers_step_lifecycle inv ht idle resp

end Sys2Proof.Machine

/-!
PROOFS, part 6. The command word (R60 to R63, R69, R72) and the decode step. A word is its five fields (R61), and it decodes to a
command exactly when they are the command's (`fields_of_decode`, `decode_of_fields`). The encoder writes these same fields, so
decoding and encoding undo each other.
-/
namespace Sys2Proof.Laws

/-! ## The fields of a word -/

/-- The five fields of a word, from the high bits down (R61). -/
def fields (w : Command) : BitVec 4 × Nat × Bool × Bool × Nat := (opField w, bankField w, zField w, vField w, idxField w)

/-- Words that agree on a field agree on each of its bits. -/
theorem getLsbD_eq_of_extract {w x : Command} {start len k : Nat} (h : w.extractLsb' start len = x.extractLsb' start len)
    (hk : start ≤ k ∧ k < start + len) : w.getLsbD k = x.getLsbD k := by
  have bit := congrArg (BitVec.getLsbD · (k - start)) h
  simp only [BitVec.getLsbD_extractLsb', show start + (k - start) = k by omega] at bit
  simpa [show k - start < len by omega] using bit

/-- The fields are the whole word (R60). -/
theorem fields_injective : Function.Injective fields := by
  intro w x h
  simp only [fields, Prod.mk.injEq] at h
  obtain ⟨op, bank, z, v, idx⟩ := h
  apply BitVec.eq_of_getLsbD_eq
  intro k hk
  have place : k < 8 ∨ k = 8 ∨ k = 9 ∨ 10 ≤ k ∧ k < 12 ∨ 12 ≤ k := by omega
  rcases place with inIdx | rfl | rfl | inBank | inOp
  · exact getLsbD_eq_of_extract (BitVec.eq_of_toNat_eq idx) (by omega)
  · exact v
  · exact z
  · exact getLsbD_eq_of_extract (BitVec.eq_of_toNat_eq bank) (by omega)
  · exact getLsbD_eq_of_extract op (by omega)

/-- Masking a word masks each field. -/
theorem fields_and (w m : Command) :
    fields (w &&& m) =
      (opField w &&& opField m, bankField w &&& bankField m, zField w && zField m, vField w && vField m,
        idxField w &&& idxField m) := by
  simp only [fields, opField, bankField, zField, vField, idxField, BitVec.extractLsb'_and, BitVec.toNat_and, BitVec.getLsbD_and]

/-! ## The rows of the opcode map -/

theorem matchesRow_iff_fields {mask pattern w : Command} :
    matchesRow mask pattern w = true ↔ fields (w &&& mask) = fields pattern := by
  rw [matchesRow, beq_iff_eq, fields_injective.eq_iff]

/-- The row of a line command fixes `OP` and `Z`, leaves the operands free, and fixes `V` where its mask holds that bit (R63). -/
theorem matchesRow_line {mask pattern w : Command} {op : BitVec 4} {z v fixesV : Bool}
    (hm : fields mask = (15#4, 0, true, fixesV, 0)) (hp : fields pattern = (op, 0, z, v, 0)) :
    matchesRow mask pattern w = true ↔ opField w = op ∧ zField w = z ∧ (vField w && fixesV) = v := by
  have op_kept : opField w &&& 15#4 = opField w := BitVec.and_allOnes
  rw [matchesRow_iff_fields, hp, fields_and]
  simp only [fields, Prod.mk.injEq] at hm
  obtain ⟨op, bank, z, v, idx⟩ := hm
  simp [op, bank, z, v, idx, op_kept]

section
variable {w : Command}

theorem matchesRow_get :
    matchesRow 0xF300#16 0x1000#16 w = true ↔ opField w = 1#4 ∧ zField w = false ∧ vField w = false := by
  simpa using matchesRow_line (w := w) (mask := 0xF300#16) (pattern := 0x1000#16) (op := 1#4) (z := false) (v := false)
    (fixesV := true) (by decide) (by decide)

theorem matchesRow_set : matchesRow 0xF200#16 0x2000#16 w = true ↔ opField w = 2#4 ∧ zField w = false := by
  simpa using matchesRow_line (w := w) (mask := 0xF200#16) (pattern := 0x2000#16) (op := 2#4) (z := false) (v := false)
    (fixesV := false) (by decide) (by decide)

theorem matchesRow_dirOut :
    matchesRow 0xF300#16 0x3000#16 w = true ↔ opField w = 3#4 ∧ zField w = false ∧ vField w = false := by
  simpa using matchesRow_line (w := w) (mask := 0xF300#16) (pattern := 0x3000#16) (op := 3#4) (z := false) (v := false)
    (fixesV := true) (by decide) (by decide)

theorem matchesRow_dirIn :
    matchesRow 0xF300#16 0x3100#16 w = true ↔ opField w = 3#4 ∧ zField w = false ∧ vField w = true := by
  simpa using matchesRow_line (w := w) (mask := 0xF300#16) (pattern := 0x3100#16) (op := 3#4) (z := false) (v := true)
    (fixesV := true) (by decide) (by decide)

/-! ## Decoding and encoding -/

/-- The fields of a command's word (R60, R63, R72). -/
def commandFields : Instr → BitVec 4 × Nat × Bool × Bool × Nat
  | .get b i => (1#4, b, false, false, i)
  | .set b i v => (2#4, b, false, v, i)
  | .dirOut b i => (3#4, b, false, false, i)
  | .dirIn b i => (3#4, b, false, true, i)
  | .attach => (8#4, 0, false, false, 0)
  | .detach => (9#4, 0, false, false, 0)

/-- A word has the fields of the command it decodes to (R61, R63). -/
theorem fields_of_decode {i : Instr} (h : decode w = .ok i) : fields w = commandFields i := by
  unfold decode at h
  split_ifs at h with get set dirOut dirIn attach detach <;> cases h
  · obtain ⟨op, z, v⟩ := matchesRow_get.mp get
    simp only [fields, commandFields, op, z, v]
  · obtain ⟨op, z⟩ := matchesRow_set.mp set
    simp only [fields, commandFields, op, z]
  · obtain ⟨op, z, v⟩ := matchesRow_dirOut.mp dirOut
    simp only [fields, commandFields, op, z, v]
  · obtain ⟨op, z, v⟩ := matchesRow_dirIn.mp dirIn
    simp only [fields, commandFields, op, z, v]
  · rw [matchesRow_full attach]; decide
  · rw [matchesRow_full detach]; decide

/-- A word with a command's fields matches that command's row and no row before it (R63). -/
theorem decode_of_fields {i : Instr} (h : fields w = commandFields i) : decode w = .ok i := by
  cases i with
  | attach =>
    obtain rfl : w = 0x8000#16 := fields_injective (h.trans (by decide))
    decide
  | detach =>
    obtain rfl : w = 0x9000#16 := fields_injective (h.trans (by decide))
    decide
  | _ =>
    simp only [fields, commandFields, Prod.mk.injEq] at h
    obtain ⟨op, bank, z, v, idx⟩ := h
    simp [decode, matchesRow_get, matchesRow_set, matchesRow_dirOut, matchesRow_dirIn, op, bank, z, v, idx]

/-- A word in a command's row that carries its operands has the command's fields. -/
theorem fields_of_row {i : Instr} (row : matchesRow (opcodeRow i).1 (opcodeRow i).2 w = true)
    (operands : (bankField w, idxField w, vField w) = carriedOperands i) : fields w = commandFields i := by
  have bank : bankField w = (carriedOperands i).1 := congrArg (·.1) operands
  have idx : idxField w = (carriedOperands i).2.1 := congrArg (·.2.1) operands
  have v : vField w = (carriedOperands i).2.2 := congrArg (·.2.2) operands
  cases i with
  | get b n => simp [fields, commandFields, carriedOperands, matchesRow_get.mp row, bank, idx]
  | set b n l => simp [fields, commandFields, carriedOperands, matchesRow_set.mp row, bank, idx, v]
  | dirOut b n => simp [fields, commandFields, carriedOperands, matchesRow_dirOut.mp row, bank, idx]
  | dirIn b n => simp [fields, commandFields, carriedOperands, matchesRow_dirIn.mp row, bank, idx]
  | attach => rw [matchesRow_full row]; decide
  | detach => rw [matchesRow_full row]; decide

end

/-- The word of every well-formed command stands in the command's row and carries its operands. -/
theorem encodedRow (i : Instr) : EncodedRow.Statement i :=
  match i with
  | .get b n => EncodedRow.get b n
  | .set b n v => EncodedRow.set b n v
  | .dirOut b n => EncodedRow.dirOut b n
  | .dirIn b n => EncodedRow.dirIn b n
  | .attach => EncodedRow.attach
  | .detach => EncodedRow.detach

theorem fields_encode {i : Instr} (h : i.wellFormed = true) : fields (encode i) = commandFields i :=
  fields_of_row (encodedRow i h).1 (encodedRow i h).2

theorem decode_encode {i : Instr} (h : i.wellFormed = true) : decode (encode i) = .ok i := decode_of_fields (fields_encode h)

/-- A command whose operands are fields of a word is well formed. -/
theorem wellFormed_of_fields {w : Command} {i : Instr} (h : fields w = commandFields i) : i.wellFormed = true := by
  have bank : bankField w = (commandFields i).2.1 := congrArg (·.2.1) h
  have idx : idxField w = (commandFields i).2.2.2.2 := congrArg (·.2.2.2.2) h
  have fit : lineOperandsFit (commandFields i).2.1 (commandFields i).2.2.2.2 = true := by rw [← bank, ← idx, fields_fit]
  cases i with
  | get | set | dirOut | dirIn => exact fit
  | attach | detach => rfl

/-- Settles O5: the encoder writes the fields the decoder reads. -/
theorem decodeOfEncodeIsTheCommand : Obligations.DecodeOfEncodeIsTheCommand := fun _ h => decode_encode h

/-- Settles O6: the word of the decoded command has the same fields, and a word decodes to one command. -/
theorem decodedWordEncodesBack : Obligations.DecodedWordEncodesBack := by
  intro w i h
  have same := fields_of_decode h
  have wf := wellFormed_of_fields same
  refine ⟨wf, fields_injective ((fields_encode wf).trans same.symm), ?_⟩
  rintro j hj rfl
  exact Except.ok.inj ((decode_encode hj).symm.trans h)

/-- The line commands are the words with `Z = 0`, `OP` one of 1 to 3, and `V = 0` in `GET` (R69). -/
theorem decodes_to_requester_iff {w : Command} :
    (∃ i, decode w = .ok i ∧ i.portClass = .requester) ↔
      zField w = false ∧ (opField w = 1#4 ∧ vField w = false ∨ opField w = 2#4 ∨ opField w = 3#4) := by
  constructor
  · rintro ⟨i, h, port⟩
    have same := fields_of_decode h
    cases i with
    | attach | detach => cases port
    | _ =>
      simp only [fields, commandFields, Prod.mk.injEq] at same
      obtain ⟨op, -, z, v, -⟩ := same
      simp [op, z, v]
  · rintro ⟨z, ⟨op, v⟩ | op | op⟩
    · exact ⟨.get (bankField w) (idxField w), decode_of_fields (by simp only [fields, commandFields, op, z, v]), rfl⟩
    · exact ⟨.set (bankField w) (idxField w) (vField w), decode_of_fields (by simp only [fields, commandFields, op, z]), rfl⟩
    · cases v : vField w with
      | false =>
        exact ⟨.dirOut (bankField w) (idxField w), decode_of_fields (by simp only [fields, commandFields, op, z, v]), rfl⟩
      | true =>
        exact ⟨.dirIn (bankField w) (idxField w), decode_of_fields (by simp only [fields, commandFields, op, z, v]), rfl⟩

/-- The lifecycle commands are two words (R63, R69). -/
theorem decodes_to_lifecycle_iff {w : Command} :
    (∃ i, decode w = .ok i ∧ i.portClass = .lifecycle) ↔ w = 0x8000#16 ∨ w = 0x9000#16 := by
  constructor
  · rintro ⟨i, h, port⟩
    cases i with
    | attach => exact .inl (eq_of_decode_attach h)
    | detach => exact .inr (eq_of_decode_detach h)
    | _ => cases port
  · rintro (rfl | rfl)
    · exact ⟨.attach, by decide, rfl⟩
    · exact ⟨.detach, by decide, rfl⟩

/-- Settles O7. -/
theorem commandWordsOfEachPort : Obligations.CommandWordsOfEachPort :=
  fun _ => ⟨decodes_to_requester_iff, decodes_to_lifecycle_iff⟩

/-- Settles O8: the six commands' words are their encodings; the other four words are in no row. -/
theorem writtenOutWordsDecode : Obligations.WrittenOutWordsDecode := by
  refine ⟨decode_encode (i := .get 1 22) rfl, decode_encode (i := .set 1 0 true) rfl, decode_encode (i := .dirOut 2 68) rfl,
    decode_encode (i := .dirIn 0 67) rfl, decode_encode (i := .attach) rfl, decode_encode (i := .detach) rfl, ?_, ?_, ?_, ?_⟩
  all_goals decide

/-- A well-formed command's word is one of the two lifecycle words exactly when the lifecycle port accepts it (R65). -/
theorem encode_lifecycle_iff {i : Instr} (h : i.wellFormed = true) :
    (encode i = 0x8000#16 ∨ encode i = 0x9000#16) ↔ i.portClass = .lifecycle := by
  rw [← decodes_to_lifecycle_iff]
  simp [decode_encode h]

end Sys2Proof.Laws

namespace Sys2Proof.Machine

open Sys2Proof.Laws

/-! ## The decode step -/

section
variable {s : State} {r : Nat} {q : Requester} {i : Instr}

/-- A requester's word waiting for decode is the word of its port's next step (R20, R112). -/
theorem fetch_of_requester_dec (at_dec : RequesterAt s r q .dec) : fetch s = some q.cmd := by
  obtain ⟨turn, port, phase⟩ := at_dec
  simp [fetch, turn, port, phase]

/-- A lifecycle word waiting for decode is the word of the lifecycle port's next step (R23, R140). -/
theorem fetch_of_lifecycle_dec (at_dec : LifecycleAt s .dec) : fetch s = some s.lcmd := by
  obtain ⟨turn, phase⟩ := at_dec
  simp [fetch, turn, phase]

/-! ### A word that is placed -/

theorem withFetchWord_encode (s : State) (i : Instr) : s.withFetchWord 16 (encode i).toNat = placeCommand (encode i) s := by
  rw [State.withFetchWord, Nat.mod_eq_of_lt (encode i).isLt, BitVec.ofNat_toNat, BitVec.setWidth_eq]

/-- The first port holds the word placed and waits for decode, whatever ports there are. -/
theorem latchFirst_head (w : Command) (ports : List Requester) :
    ∃ q, (latchFirst w ports)[0]? = some q ∧ q.phase = .dec ∧ q.cmd = w := by
  cases ports with
  | nil => exact ⟨_, rfl, rfl, rfl⟩
  | cons q rest => exact ⟨_, rfl, rfl, rfl⟩

theorem placed_lifecycle (s : State) (h : i.wellFormed = true) (port : i.portClass = .lifecycle) :
    LifecycleAt (placeCommand (encode i) s) .dec ∧ (placeCommand (encode i) s).lcmd = encode i := by
  rw [placeCommand, if_pos ((encode_lifecycle_iff h).mpr port)]
  exact ⟨⟨rfl, rfl⟩, rfl⟩

theorem placed_requester (s : State) (h : i.wellFormed = true) (port : i.portClass = .requester) :
    ∃ q, RequesterAt (placeCommand (encode i) s) 0 q .dec ∧ q.cmd = encode i := by
  have other : ¬(encode i = 0x8000#16 ∨ encode i = 0x9000#16) := by rw [encode_lifecycle_iff h, port]; decide
  obtain ⟨q, head, phase, cmd⟩ := latchFirst_head (encode i) s.reqs
  rw [placeCommand, if_neg other]
  exact ⟨q, ⟨rfl, head, phase⟩, cmd⟩

/-- The word placed is the one the next step fetches, on either class of port. -/
theorem fetch_placed (s : State) (h : i.wellFormed = true) : fetch (placeCommand (encode i) s) = some (encode i) := by
  cases port : i.portClass with
  | lifecycle =>
    obtain ⟨at_dec, cmd⟩ := placed_lifecycle s h port
    rw [fetch_of_lifecycle_dec at_dec, cmd]
  | requester =>
    obtain ⟨q, at_dec, cmd⟩ := placed_requester s h port
    rw [fetch_of_requester_dec at_dec, cmd]

/-- Settles O11: the word placed is fetched, and it decodes to the command. -/
theorem placedCommandRunsNext : Obligations.PlacedCommandRunsNext := by
  intro s i h
  rw [withFetchWord_encode]
  exact ⟨step_of_fetch (fetch_placed s h) (decode_encode h), fun port => (placed_lifecycle s h port).1, placed_requester s h⟩

/-! ### A word that is refused -/

/-- `InvalidCommand` on a requester port (R160, R166). -/
theorem raise_invalidCommand_requester (at_dec : RequesterAt s r q .dec) :
    raise (.requester r) .invalidCommand s =
      { s with reqs := s.reqs.set r { q with rsp := 0x06#8, phase := .resp },
               history := .response (.requester r) 0x06#8 :: s.history } := by
  obtain ⟨_, port, _⟩ := at_dec
  rw [raise, responseWord_invalidCommand, respond_requester_of_port _ port]

/-- `InvalidCommand` on the lifecycle port (R160, R166). -/
theorem raise_invalidCommand_lifecycle (s : State) :
    raise .lifecycle .invalidCommand s =
      { s with lrsp := 0x06#8, lstep := .resp, history := .response .lifecycle 0x06#8 :: s.history } := by
  rw [raise, responseWord_invalidCommand, respond_lifecycle]

theorem answerReserved_requester (at_dec : RequesterAt s r q .dec) :
    answerReserved s = .next (raise (.requester r) .invalidCommand s) := by
  obtain ⟨turn, port, phase⟩ := at_dec
  simp [answerReserved, turn, port, phase]

theorem answerReserved_lifecycle (at_dec : LifecycleAt s .dec) :
    answerReserved s = .next (raise .lifecycle .invalidCommand s) := by
  obtain ⟨turn, phase⟩ := at_dec
  simp [answerReserved, turn, phase]

/-- A line command's word on the lifecycle port is treated as a reserved word (R65, R69). -/
theorem exec_requester_command_on_lifecycle (at_dec : LifecycleAt s .dec) (accepted : i.portClass = .requester) :
    exec i s = .next (raise .lifecycle .invalidCommand s) := by
  obtain ⟨turn, phase⟩ := at_dec
  have refused : ∀ k, onRequester s k = .next (raise .lifecycle .invalidCommand s) := by simp [onRequester, turn, phase]
  cases i with
  | get | set | dirOut | dirIn => exact refused _
  | attach | detach => cases accepted

/-- A lifecycle command's word on a requester port is treated as a reserved word (R65, R69). -/
theorem exec_lifecycle_command_on_requester (at_dec : RequesterAt s r q .dec) (accepted : i.portClass = .lifecycle) :
    exec i s = .next (raise (.requester r) .invalidCommand s) := by
  obtain ⟨turn, port, phase⟩ := at_dec
  have refused : ∀ k, onLifecycle s k = .next (raise (.requester r) .invalidCommand s) := by
    simp [onLifecycle, turn, port, phase]
  cases i with
  | get | set | dirOut | dirIn => cases accepted
  | attach | detach => exact refused _

end

/-- Settles O14: each class of port refuses the words that are reserved, and the commands of the other class. -/
theorem reservedWordAnswersInvalidCommand : Obligations.ReservedWordAnswersInvalidCommand := by
  refine ⟨?_, ?_, ?_, ?_⟩
  · intro s r q e at_dec reserved
    rw [step_of_reserved (fetch_of_requester_dec at_dec) reserved, answerReserved_requester at_dec,
      raise_invalidCommand_requester at_dec]
    rfl
  · intro s e at_dec reserved
    rw [step_of_reserved (fetch_of_lifecycle_dec at_dec) reserved, answerReserved_lifecycle at_dec,
      raise_invalidCommand_lifecycle]
    rfl
  · intro s i at_dec accepted
    rw [exec_requester_command_on_lifecycle at_dec accepted, raise_invalidCommand_lifecycle]
  · intro s i r q at_dec accepted
    rw [exec_lifecycle_command_on_requester at_dec accepted, raise_invalidCommand_requester at_dec]

end Sys2Proof.Machine

/-!
PROOFS, part 7. The port reader: the two steps of a lane (R82 to R84, R143), the base read they make up, and what the controller
may write to the index port (R85).
-/
namespace Sys2Proof.Machine

/-! ## The accesses of a lane -/

/-- The phases of the three lanes: a lane's index step, its number, its data step, and the phase after it (R143). -/
def lanePhases : List (LStep × Nat × LStep × LStep) :=
  [(.idx1, 1, .dat1, .idx2), (.idx2, 2, .dat2, .idx3), (.idx3, 3, .dat3, .prel)]

section
variable {s : State} {l m go : LStep} {k : Nat}

theorem writeIndex_of_reserved (v : Byte) (go : LStep) (reserved : s.portsRsvd = true) :
    writeIndex v go s =
      .next { s with idxReg := v, lstep := go, history := .ioWrite s.params.indexPort v :: s.history } := by
  rw [writeIndex, if_pos reserved]
  rfl

theorem readData_of_reserved (go : LStep) (reserved : s.portsRsvd = true) :
    readData go s =
      .next { s with acc := accumulate s.acc (s.configSpace.read .config s.idxReg.toNat), lstep := go,
                     history := .ioRead (dataPort s.params) (s.configSpace.read .config s.idxReg.toNat) :: s.history } := by
  simp only [readData, if_pos reserved]
  rfl

/-- The index step of lane `k` (R83, R143). -/
theorem exec_attach_index (phase : (l, k, m, go) ∈ lanePhases) (at_step : LifecycleAt s l) (reserved : s.portsRsvd = true) :
    exec .attach s = .next
      { s with idxReg := laneAddress s.params.laneOrder regOffset k, lstep := m,
               history := .ioWrite s.params.indexPort (laneAddress s.params.laneOrder regOffset k) :: s.history } := by
  obtain ⟨turn, rfl⟩ := at_step
  rw [← writeIndex_of_reserved _ _ reserved, exec, execAttach, onLifecycle_of_turn turn]
  simp only [lanePhases, List.mem_cons, Prod.mk.injEq, List.not_mem_nil, or_false] at phase
  rcases phase with ⟨hp, rfl, rfl, -⟩ | ⟨hp, rfl, rfl, -⟩ | ⟨hp, rfl, rfl, -⟩ <;> rw [hp] <;> rfl

/-- The data step of a lane: it reads the byte that the index register points at (R84, R143). -/
theorem exec_attach_data (phase : (l, k, m, go) ∈ lanePhases) (at_step : LifecycleAt s m) (reserved : s.portsRsvd = true) :
    exec .attach s = .next
      { s with acc := accumulate s.acc (s.configSpace.read .config s.idxReg.toNat), lstep := go,
               history := .ioRead (dataPort s.params) (s.configSpace.read .config s.idxReg.toNat) :: s.history } := by
  obtain ⟨turn, rfl⟩ := at_step
  rw [← readData_of_reserved _ reserved, exec, execAttach, onLifecycle_of_turn turn]
  simp only [lanePhases, List.mem_cons, Prod.mk.injEq, List.not_mem_nil, or_false] at phase
  rcases phase with ⟨-, -, hp, rfl⟩ | ⟨-, -, hp, rfl⟩ | ⟨-, -, hp, rfl⟩ <;> rw [hp]

end

/-! ## The base read -/

theorem execWith_cons_of_next {i : Instr} {x : Inputs} {xs : List Inputs} {s t : State}
    (h : exec i { s with inputs := x } = .next t) : execWith i (x :: xs) s = execWith i xs t := by
  rw [execWith, h]

/-- The state after the two steps of lane `k`, which go on to `go`; `y` are the free inputs of the second step. -/
def State.afterLane (s : State) (k : Nat) (go : LStep) (y : Inputs) : State :=
  { s with acc := accumulate s.acc (laneByte s.params.laneOrder s.configSpace regOffset k),
           idxReg := laneAddress s.params.laneOrder regOffset k, lstep := go, inputs := y,
           history := .ioRead (dataPort s.params) (laneByte s.params.laneOrder s.configSpace regOffset k) ::
             .ioWrite s.params.indexPort (laneAddress s.params.laneOrder regOffset k) :: s.history }

/-- The two steps of lane `k`, taken one after the other, accumulate the byte of that lane (R83, R84). -/
theorem execWith_lane {s : State} {l m go : LStep} {k : Nat} (x y : Inputs) (xs : List Inputs)
    (phase : (l, k, m, go) ∈ lanePhases) (at_step : LifecycleAt s l) (reserved : s.portsRsvd = true) :
    execWith .attach (x :: y :: xs) s = execWith .attach xs (s.afterLane k go y) := by
  obtain ⟨turn, stands⟩ := at_step
  rw [execWith_cons_of_next (exec_attach_index (s := { s with inputs := x }) phase ⟨turn, stands⟩ reserved)]
  exact execWith_cons_of_next (exec_attach_data phase ⟨turn, rfl⟩ reserved)

/-- Settles O33, lane by lane; the cleared accumulator takes the three bytes in turn. -/
theorem baseReadAssemblesThreeLanes : Obligations.BaseReadAssemblesThreeLanes := by
  intro s x1 x2 x3 x4 x5 x6 start reserved cleared a d
  calc execWith .attach [x1, x2, x3, x4, x5, x6] s
      = execWith .attach [x3, x4, x5, x6] (s.afterLane 1 .idx2 x2) :=
        execWith_lane (l := .idx1) (m := .dat1) _ _ _ (by decide) start reserved
    _ = execWith .attach [x5, x6] ((s.afterLane 1 .idx2 x2).afterLane 2 .idx3 x4) :=
        execWith_lane (l := .idx2) (m := .dat2) _ _ _ (by decide) ⟨start.1, rfl⟩ reserved
    _ = .next (((s.afterLane 1 .idx2 x2).afterLane 2 .idx3 x4).afterLane 3 .prel x6) :=
        execWith_lane (l := .idx3) (m := .dat3) _ _ _ (by decide) ⟨start.1, rfl⟩ reserved
    _ = _ := by
        simp only [State.afterLane, cleared, accumulate_three]
        rfl

/-- Settles O34: the ascending lanes of 0x24 are 0x25, 0x26 and 0x27, and the first byte is the most significant. -/
theorem sourcesDiscoveryExample : Obligations.SourcesDiscoveryExample := by
  intro m first second third
  have value : readBase .ascending m 0x24#8 = 0x123456#24 := by
    have d1 : laneByte .ascending m 0x24#8 1 = 0x12#8 := first
    have d2 : laneByte .ascending m 0x24#8 2 = 0x34#8 := second
    have d3 : laneByte .ascending m 0x24#8 3 = 0x56#8 := third
    rw [readBase, d1, d2, d3]
    rfl
  rw [value]
  exact ⟨rfl, rfl, rfl⟩

/-! ## What a step records -/

/-- One history grows to another by events that name no lane but 1 to 3 (R85). -/
def GrowsInLanes (before after : List Event) : Prop :=
  ∃ new : List Event, after = new ++ before ∧ ∀ e ∈ new, e.keepsLaneRule = true

theorem GrowsInLanes.refl (h : List Event) : GrowsInLanes h h := ⟨[], rfl, by simp⟩

theorem GrowsInLanes.record {before after : List Event} {e : Event} (rule : e.keepsLaneRule = true)
    (h : GrowsInLanes before after) : GrowsInLanes before (e :: after) := by
  obtain ⟨new, rfl, rules⟩ := h
  exact ⟨e :: new, rfl, List.forall_mem_cons.mpr ⟨rule, rules⟩⟩

/-- The address of each of the lanes 1 to 3 may be written to the index port, in either lane order (R81, R85). -/
theorem keepsLaneRule_laneAddress (p : PortAddr) (order : LaneOrder) {k : Nat} (h : k = 1 ∨ k = 2 ∨ k = 3) :
    (Event.ioWrite p (laneAddress order regOffset k)).keepsLaneRule = true := by
  rcases h with rfl | rfl | rfl <;> cases order <;> rfl

/-- A requester writes no index (R68). -/
theorem RequesterStep.growsInLanes {s u : State} {r : Nat} {q : Requester} (h : RequesterStep s r q u) :
    GrowsInLanes s.history u.history := by
  cases h with
  | taken | admitted => exact .refl _
  | issued | refused | acquired | read | directionWritten | levelWritten => exact .record rfl (.refl _)
  | answered | released => exact .record rfl (.record rfl (.refl _))

/-- Of the lifecycle sequencer's steps the index steps of the three lanes alone write an index (R83, R143). -/
theorem LifecycleStep.growsInLanes {s u : State} (h : LifecycleStep s u) : GrowsInLanes s.history u.history := by
  cases h with
  | indexWritten phase =>
    simp only [List.mem_cons, Prod.mk.injEq, List.not_mem_nil, or_false] at phase
    exact .record (keepsLaneRule_laneAddress _ _ (by tauto)) (.refl _)
  | taken | attachStarted | detachStarted | drained => exact .refl _
  | issued | refused | portsReserved | dataRead | portsReleased | regionReserved | windowMapped | mapRefused | bankRegistered
  | bankRefused | bankUnregistered | windowUnmapped => exact .record rfl (.refl _)
  | resourceRefused | attachDone | regionReleased => exact .record rfl (.record rfl (.refl _))

theorem AgentStep.growsInLanes {s u : State} (h : AgentStep s u) : GrowsInLanes s.history u.history := by
  cases h with
  | held | other => exact .refl _
  | requester _ _ move => exact move.growsInLanes
  | lifecycle _ move => exact move.growsInLanes

/-! ## The data steps in a run -/

/-- The data steps are `ATTACH`'s (R143). -/
theorem command_of_dataLane {l : LStep} {k : Nat} (h : l.dataLane = some k) : l.command = some 0x8000#16 := by
  revert h; cases l <;> simp [LStep.dataLane, LStep.command]

/-- A data step is the second step of its own lane (R143). -/
theorem exists_lanePhases_of_dataLane {m : LStep} {k : Nat} (h : m.dataLane = some k) :
    ∃ l go, (l, k, m, go) ∈ lanePhases := by
  revert h; cases m <;> rintro ⟨⟩ <;> simp [lanePhases]

section
variable {s : State}

/-- From the invariant the lifecycle port's turn runs the command of its phase (R23, R141, R151). -/
theorem Inv.fetch_of_command {w : Command} (inv : Inv s) (turn : s.turn = .lifecycle) (h : s.lstep.command = some w) :
    fetch s = some w := by
  have idle : s.lstep ≠ .idle := by intro e; rw [e] at h; cases h
  have resp : s.lstep ≠ .resp := by intro e; rw [e] at h; cases h
  simp [fetch, turn, idle, resp, inv.latched w h]

/-- From the invariant the data step of lane `k` reads that lane's byte and has read the lanes 1 to `k`: the ports are reserved,
so nobody else has moved the index register away from the lane (R82 to R84, R89). -/
theorem Inv.step_data {k : Nat} (inv : Inv s) (turn : s.turn = .lifecycle) (own : s.lstep.dataLane = some k) :
    ∃ go, step s = .next
      { s with acc := readLanes s.params.laneOrder s.configSpace regOffset k, lstep := go,
               history := .ioRead (dataPort s.params) (laneByte s.params.laneOrder s.configSpace regOffset k) ::
                 s.history }.draw := by
  have reserved : s.portsRsvd = true := (holdings_eq_iff.mp inv.holds).1.trans (holds_ports_of_dataLane own)
  have lane : s.idxReg = laneAddress s.params.laneOrder regOffset k := inv.indexed k own
  have summed : accumulate s.acc (s.configSpace.read .config s.idxReg.toNat) =
      readLanes s.params.laneOrder s.configSpace regOffset k := by
    obtain ⟨n, rfl, _, _⟩ := lanesDone_of_dataLane own
    exact inv.lifecycleInv.acc_after_data own
  obtain ⟨_, go, phase⟩ := exists_lanePhases_of_dataLane own
  refine ⟨go, ?_⟩
  rw [step_of_fetch (i := .attach) (inv.fetch_of_command turn (command_of_dataLane own)) (by decide),
    exec_attach_data phase ⟨turn, rfl⟩ reserved, summed, lane]
  rfl

end

/-- Settles O57: of all steps the lanes' index steps alone write an index, and a data step finds its own lane's. -/
theorem laneZeroIsNeverIndexed : Obligations.LaneZeroIsNeverIndexed := by
  constructor
  · intro s t h
    obtain ⟨u, hu, rfl⟩ := step_cases h
    rw [State.draw_history]
    exact hu.growsInLanes
  · rintro s l k inv ⟨turn, rfl⟩ phase
    simp only [List.mem_cons, Prod.mk.injEq, List.not_mem_nil, or_false] at phase
    have own : s.lstep.dataLane = some k := by rcases phase with ⟨hp, rfl⟩ | ⟨hp, rfl⟩ | ⟨hp, rfl⟩ <;> rw [hp] <;> rfl
    have not_lane_zero : laneAddress s.params.laneOrder regOffset k ≠ 0x24#8 := laneAddress_ne_register (by tauto)
    obtain ⟨go, stepped⟩ := inv.step_data turn own
    exact ⟨inv.indexed k own, inv.indexed k own ▸ not_lane_zero, _, stepped, State.draw_acc _, State.draw_history _⟩

end Sys2Proof.Machine

/-!
PROOFS, part 8. Busy requesters and the window: the gate alone makes a requester busy, and the window of a busy requester stays
mapped (R96, R152).
-/
namespace Sys2Proof.Machine

section
variable {s u : State} {r : Nat} {q q' : Requester}

/-- Of a requester's own steps the gate alone makes it busy, and the gate admits in `Attached` only (R20, R113). -/
theorem RequesterStep.was_busy_or_attached (h : RequesterStep s r q u) (after : u.reqs[r]? = some q')
    (busy : q'.phase.busy = true) : q.phase.busy = true ∨ s.lc = .attached := by
  cases h with
  | admitted _ _ _ _ _ _ attached => exact .inr attached
  | acquired | read | directionWritten | levelWritten | answered | released =>
    exact .inl (by rw [‹q.phase = _›]; rfl)
  | issued | taken | refused =>
    rcases getElem?_set_cases after with ⟨-, rfl⟩ | ⟨other, -⟩
    · cases busy
    · exact absurd rfl other

/-- A requester becomes busy in `Attached` only, whichever agent takes the step (R113, R152). -/
theorem AgentStep.was_busy_or_attached (h : AgentStep s u) (before : s.reqs[r]? = some q) (after : u.reqs[r]? = some q')
    (busy : q'.phase.busy = true) : q.phase.busy = true ∨ s.lc = .attached := by
  have of_untouched (same : s.reqs[r]? = some q') : q.phase.busy = true ∨ s.lc = .attached := by
    rw [before] at same
    cases same
    exact .inl busy
  cases h with
  | held => exact of_untouched after
  | other => exact of_untouched after
  | lifecycle _ move => exact of_untouched (move.frame.1 ▸ after)
  | @requester r' p _ _ port move =>
    obtain ⟨-, _, ports⟩ := move.frame
    by_cases own : r = r'
    · subst own
      rw [before] at port
      cases port
      exact move.was_busy_or_attached after busy
    · rw [ports, List.getElem?_set_ne (Ne.symm own)] at after
      exact of_untouched after

/-- While a requester is busy no agent's step unmaps the window: the lifecycle sequencer, which alone maps and unmaps, leaves the
requester busy, and from the invariant the window of a busy requester is mapped (R30 (g), R96). -/
theorem AgentStep.mapped_of_busy (h : AgentStep s u) (inv : Inv s) (port : s.reqs[r]? = some q) (busy : q.phase.busy = true) :
    u.mapped = true := by
  have mapped : s.mapped = true := (inv.mapped_of_busy port busy).2
  have kept : Inv u := h.keeps_inv inv
  cases h with
  | held => exact mapped
  | other => exact mapped
  | requester _ _ move => rw [move.frame.1]; exact mapped
  | lifecycle _ move => exact (kept.mapped_of_busy (move.frame.1 ▸ port) busy).2

end

/-- Settles O53: a busy requester's window stays mapped, and in `Detaching` the gate admits nothing. -/
theorem detachLetsBusyRequestersFinish : Obligations.DetachLetsBusyRequestersFinish := by
  intro s t r q q' inv h before after
  obtain ⟨u, hu, rfl⟩ := step_cases h
  rw [State.draw_reqs] at after
  rw [State.draw_mapped]
  constructor
  · intro _ unmapped
    by_contra busy
    rw [Bool.not_eq_false] at busy
    rw [hu.mapped_of_busy inv before busy] at unmapped
    cases unmapped
  · intro detaching busy
    rcases hu.was_busy_or_attached before after busy with was_busy | attached
    · exact was_busy
    · rw [detaching] at attached
      cases attached

end Sys2Proof.Machine

/-!
PROOFS, part 9. The line register byte bit by bit (R101, R103, R105), and the one read of `GET`, whose answer is the level of the
byte read (R102, R114).
-/
namespace Sys2Proof.Machine

/-! ## Bits of the line register byte -/

section
variable {b : Byte} {k : Nat}

/-- Putting a value into one bit of a byte by a mask that holds this bit alone, or by one that lacks it alone, changes this bit
alone. -/
theorem getLsbD_putBit {i : Nat} {only without : Byte} (x : Bool) (hk : k < 8)
    (honly : ∀ j < 8, only.getLsbD j = decide (j = i)) (hwithout : ∀ j < 8, without.getLsbD j = !decide (j = i)) :
    (if x then b ||| only else b &&& without).getLsbD k = if k = i then x else b.getLsbD k := by
  cases x
  case true =>
    simp only [if_true, BitVec.getLsbD_or, honly k hk]
    by_cases own : k = i <;> simp [own]
  case false =>
    simp only [Bool.false_eq_true, if_false, BitVec.getLsbD_and, hwithout k hk]
    by_cases own : k = i <;> simp [own]

/-- The direction is bit 5 (R101). -/
theorem getLsbD_withDirection (x : Bool) (hk : k < 8) :
    (withDirection b x).getLsbD k = if k = 5 then x else b.getLsbD k :=
  getLsbD_putBit x hk (by decide) (by decide)

/-- The output level is bit 6, on every byte (R103). -/
theorem getLsbD_withOutputLevel (x : Bool) (hk : k < 8) :
    (withOutputLevel b x).getLsbD k = if k = 6 then x else b.getLsbD k :=
  getLsbD_putBit x hk (by decide) (by decide)

/-! ## The level of a byte -/

/-- The level of an input byte is its input bit, of an output byte its output level (R102). -/
theorem readLevel_eq (b : Byte) : readLevel b = if isInput b then b.getLsbD 7 else outputLevel b := rfl

/-- An output byte reads back the level put in (R105). -/
theorem readLevel_withOutputLevel (l : Bool) (output : isInput b = false) : readLevel (withOutputLevel b l) = l := by
  have level : outputLevel (withOutputLevel b l) = l := getLsbD_withOutputLevel l (by decide)
  rw [readLevel_eq, isInput_withOutputLevel, output, level]
  rfl

end

/-- Settles O1: a byte switched to output is an output byte, whatever it was before. -/
theorem levelReadsBackThroughEncoding : Obligations.LevelReadsBackThroughEncoding := by
  intro b l
  refine ⟨?_, ?_, ?_⟩
  · exact readLevel_withOutputLevel l (isInput_withDirection b false)
  · exact readLevel_withOutputLevel l (isInput_withDirection _ false)
  · rw [isInput_withOutputLevel, isInput_withDirection]

/-- Settles O2. -/
theorem encodingChangesOneBit : Obligations.EncodingChangesOneBit :=
  fun _ x _ hk => ⟨getLsbD_withDirection x hk, getLsbD_withOutputLevel x hk⟩

/-! ## The read step of `GET` -/

/-- The word `OK` with a level (R64, R161). -/
theorem responseWord_level (l : Bool) : responseWord l Status.ok.code = if l then 0x80#8 else 0x00#8 := by
  cases l <;> rfl

section
variable {s : State} {r b n : Nat} {q : Requester}

/-- The level of a line is the pad of an input line and the stored level of an output line (R26, R102): the byte read has any
bit 7 on an output line, and the level does not look at it. -/
theorem readLevel_readLine (s : State) (o : Nat) :
    readLevel (s.readLine o) = if isInput (s.line o) then s.inputs.padIn else outputLevel (s.line o) := by
  rw [readLevel_eq, isInput_readLine]
  cases input : isInput (s.line o)
  · exact outputLevel_withInputBit _ _
  · rw [State.readLine, input]
    exact inputBit_withInputBit _ _

/-- The unlocked read of a usable line answers, with the level of the byte read (R114). -/
theorem readUnlocked_of_usable (usable : LineUsable s b n) (port : s.reqs[r]? = some q) :
    readUnlocked r b n s = .next { s with
      reqs := s.reqs.set r { q with reg := s.readLine (lineOffset b n),
                                    rsp := responseWord (readLevel (s.readLine (lineOffset b n))) Status.ok.code,
                                    phase := .resp },
      history := .response (.requester r) (responseWord (readLevel (s.readLine (lineOffset b n))) Status.ok.code) ::
        .memRead r (lineAddr s b n) (s.readLine (lineOffset b n)) :: s.history } := by
  obtain ⟨mapped, range⟩ := usable
  rw [readUnlocked, memRead_of_lineAt (lineAt_lineAddr mapped range), respond_requester, State.modReq,
    modify_eq_set_of_getElem? (q := q) _ (by simpa using port)]
  simp only [set_modify_self]
  rfl

/-- In its read phase `GET` makes the unlocked read. -/
theorem exec_get_of_rdu (at_rdu : RequesterAt s r q .rdu) : exec (.get b n) s = readUnlocked r b n s := by
  obtain ⟨turn, port, phase⟩ := at_rdu
  rw [exec, execGet, onRequester_of_turn turn port, phase]

end

/-- Settles O18: the byte is the one a read of the line answers, and the word carries its level. -/
theorem getAnswersTheLevel : Obligations.GetAnswersTheLevel := by
  intro s r b n q at_rdu usable
  refine ⟨s.readLine (lineOffset b n), responseWord (readLevel (s.readLine (lineOffset b n))) Status.ok.code, ?_, rfl, ?_⟩
  · have ⟨_, port, _⟩ := at_rdu
    rw [exec_get_of_rdu at_rdu, readUnlocked_of_usable usable port]
  · rw [responseWord_level, readLevel_readLine]

end Sys2Proof.Machine

/-!
PROOFS, part 10. The steps of a line command, phase by phase (R112 to R125): one equation for each phase of a requester's
sequencer, the same for every command that has the phase, and the operation it makes on a line that is usable.
-/
namespace Sys2Proof.Machine

/-! ## The steps that run no command -/

section
variable {s : State} {r : Nat} {q : Requester}

theorem step_of_no_fetch (h : fetch s = none) : step s = .next (outsideStep s).draw := by rw [step, h]

/-- An idle requester port latches the word presented (R112). -/
theorem step_of_requester_idle {w : Command} (at_idle : RequesterAt s r q .idle) (presented : s.inputs.word = some w) :
    step s = .next (issue (.requester r) w s).draw := by
  obtain ⟨turn, port, phase⟩ := at_idle
  have moved : outsideStep s = issue (.requester r) w s := by simp [outsideStep, turn, port, phase, issueIfPresented, presented]
  rw [step_of_no_fetch (by simp [fetch, turn, port, phase]), moved]

/-- The idle lifecycle port latches the word presented (R140). -/
theorem step_of_lifecycle_idle {w : Command} (at_idle : LifecycleAt s .idle) (presented : s.inputs.word = some w) :
    step s = .next (issue .lifecycle w s).draw := by
  obtain ⟨turn, phase⟩ := at_idle
  have moved : outsideStep s = issue .lifecycle w s := by simp [outsideStep, turn, phase, issueIfPresented, presented]
  rw [step_of_no_fetch (by simp [fetch, turn, phase]), moved]

/-- A requester port that presents a response waits for it to be taken (R125). -/
theorem step_of_requester_resp (at_resp : RequesterAt s r q .resp) : step s = .next (takeIfTaken (.requester r) s).draw := by
  obtain ⟨turn, port, phase⟩ := at_resp
  have moved : outsideStep s = takeIfTaken (.requester r) s := by simp [outsideStep, turn, port, phase]
  rw [step_of_no_fetch (by simp [fetch, turn, port, phase]), moved]

/-- The lifecycle port that presents a response waits for it to be taken (R158). -/
theorem step_of_lifecycle_resp (at_resp : LifecycleAt s .resp) : step s = .next (takeIfTaken .lifecycle s).draw := by
  obtain ⟨turn, phase⟩ := at_resp
  have moved : outsideStep s = takeIfTaken .lifecycle s := by simp [outsideStep, turn, phase]
  rw [step_of_no_fetch (by simp [fetch, turn, phase]), moved]

end

/-- Settles O12. -/
theorem issueLatchesThePresentedWord : Obligations.IssueLatchesThePresentedWord := by
  constructor
  · intro s r q w at_idle presented
    have ⟨_, port, _⟩ := at_idle
    rw [step_of_requester_idle at_idle presented, issue, State.modReq, modify_eq_set_of_getElem? _ port]
    rfl
  · intro s w at_idle presented
    rw [step_of_lifecycle_idle at_idle presented]
    rfl

/-- Settles O13. -/
theorem responseTakenFreesThePort : Obligations.ResponseTakenFreesThePort := by
  constructor
  · intro s r q at_resp
    have ⟨_, port, _⟩ := at_resp
    rw [step_of_requester_resp at_resp, takeIfTaken, takeResponse, State.setPhase, State.modReq,
      modify_eq_set_of_getElem? _ port]
  · intro s at_resp
    rw [step_of_lifecycle_resp at_resp]
    rfl

/-! ## The phase says which operation a line command makes -/

section
variable {s : State} {i : Instr} {r b n : Nat} {q : Requester}

/-- In its decode step every line command passes the gate or is refused there (R113). -/
theorem exec_of_dec (at_dec : RequesterAt s r q .dec) (line : lineOf i = some (b, n)) :
    exec i s = .next (lineGate r b n (if takesLock i then .acq else .rdu) s) := by
  obtain ⟨turn, port, phase⟩ := at_dec
  cases i <;> cases line
  case get => rw [exec, execGet, onRequester_of_turn turn port, phase]; rfl
  case set => rw [exec, execSet, onRequester_of_turn turn port, phase]; rfl
  case dirOut => rw [exec, execDirOut, directionStep, onRequester_of_turn turn port, phase]; rfl
  case dirIn => rw [exec, execDirIn, directionStep, onRequester_of_turn turn port, phase]; rfl

/-- In its acquire step a command takes the lock or holds (R116). -/
theorem exec_of_acq (at_acq : RequesterAt s r q .acq) (lock : takesLock i = true) : exec i s = .next (acquireLock r s) := by
  obtain ⟨turn, port, phase⟩ := at_acq
  cases i with
  | set => rw [exec, execSet, onRequester_of_turn turn port, phase]
  | dirOut => rw [exec, execDirOut, directionStep, onRequester_of_turn turn port, phase]
  | dirIn => rw [exec, execDirIn, directionStep, onRequester_of_turn turn port, phase]
  | get | attach | detach => cases lock

/-- The locked read, after which `afterRead` says where the command goes (R117). -/
theorem exec_of_rdl (at_rdl : RequesterAt s r q .rdl) (lock : takesLock i = true) (line : lineOf i = some (b, n)) :
    exec i s = readLocked r b n (afterRead i) s := by
  obtain ⟨turn, port, phase⟩ := at_rdl
  cases i <;> cases line
  case get => cases lock
  case set => rw [exec, execSet, onRequester_of_turn turn port, phase]; rfl
  case dirOut =>
    rw [exec, execDirOut, directionStep, onRequester_of_turn turn port, phase]
    exact congrArg (readLocked r b n · s) (afterRead_direction rfl rfl)
  case dirIn =>
    rw [exec, execDirIn, directionStep, onRequester_of_turn turn port, phase]
    exact congrArg (readLocked r b n · s) (afterRead_direction rfl rfl)

/-- The direction write clears bit 5 but for `DIR_IN`, which sets it (R121, R122). -/
theorem exec_of_w1 (at_w1 : RequesterAt s r q .w1) (lock : takesLock i = true) (line : lineOf i = some (b, n)) :
    exec i s = writeBack r b n (withDirection q.reg (!writesFrom i)) (afterDirection i) s := by
  obtain ⟨turn, port, phase⟩ := at_w1
  cases i <;> cases line
  case get => cases lock
  case set => rw [exec, execSet, onRequester_of_turn turn port, phase]; rfl
  case dirOut => rw [exec, execDirOut, directionStep, onRequester_of_turn turn port, phase]; rfl
  case dirIn => rw [exec, execDirIn, directionStep, onRequester_of_turn turn port, phase]; rfl

/-- The level write is `SET`'s alone (R20, R123). -/
theorem exec_set_of_w2 {level : Bool} (at_w2 : RequesterAt s r q .w2) :
    exec (.set b n level) s = writeBack r b n (withOutputLevel q.reg level) .rel s := by
  obtain ⟨turn, port, phase⟩ := at_w2
  rw [exec, execSet, onRequester_of_turn turn port, phase]

/-- The release step is the same for every command that took the lock (R124). -/
theorem exec_of_rel (at_rel : RequesterAt s r q .rel) (lock : takesLock i = true) : exec i s = .next (releaseLock r s) := by
  obtain ⟨turn, port, phase⟩ := at_rel
  cases i with
  | set => rw [exec, execSet, onRequester_of_turn turn port, phase]
  | dirOut => rw [exec, execDirOut, directionStep, onRequester_of_turn turn port, phase]
  | dirIn => rw [exec, execDirIn, directionStep, onRequester_of_turn turn port, phase]
  | get | attach | detach => cases lock

/-! ## What the operations make of a state -/

theorem raise_requester_of_port (e : Status) (port : s.reqs[r]? = some q) :
    raise (.requester r) e s =
      { s with reqs := s.reqs.set r { q with rsp := responseWord false e.code, phase := .resp },
               history := .response (.requester r) (responseWord false e.code) :: s.history } :=
  respond_requester_of_port _ port

theorem lineGate_of_not_attached (go : Phase) (outside : s.lc ≠ .attached) :
    lineGate r b n go s = raise (.requester r) .wrongState s := by
  rw [lineGate, if_pos outside]

theorem lineGate_of_not_inRange (go : Phase) (attached : s.lc = .attached) (range : inRange b n = false) :
    lineGate r b n go s = raise (.requester r) .invalidLineIndex s := by
  simp [lineGate, attached, range]

theorem lineGate_of_inRange (go : Phase) (attached : s.lc = .attached) (range : inRange b n = true)
    (port : s.reqs[r]? = some q) : lineGate r b n go s = { s with reqs := s.reqs.set r { q with phase := go } } := by
  rw [← modify_eq_set_of_getElem? (fun q => { q with phase := go }) port]
  simp [lineGate, attached, range, State.setPhase, State.modReq]

theorem acquireLock_of_port (port : s.reqs[r]? = some q) :
    acquireLock r s = if s.lockHeld then s else
      { s with lockHeld := true, lockOwner := r, reqs := s.reqs.set r { q with phase := .rdl },
               history := .lockAcquire r :: s.history } := by
  rw [← modify_eq_set_of_getElem? (fun q => { q with phase := .rdl }) port]
  rfl

theorem readLocked_of_usable (go : Byte → Phase) (usable : LineUsable s b n) (port : s.reqs[r]? = some q) :
    readLocked r b n go s = .next { s with
      reqs := s.reqs.set r { q with reg := s.readLine (lineOffset b n), phase := go (s.readLine (lineOffset b n)) },
      history := .memRead r (lineAddr s b n) (s.readLine (lineOffset b n)) :: s.history } := by
  obtain ⟨mapped, range⟩ := usable
  rw [readLocked, memRead_of_lineAt (lineAt_lineAddr mapped range), State.modReq,
    modify_eq_set_of_getElem? (q := q) _ (by simpa using port)]
  rfl

/-- The write step first changes the port's own latches, which moves no line. -/
theorem writeBack_of_usable (v : Byte) (go : Phase) (usable : LineUsable s b n) (port : s.reqs[r]? = some q) :
    writeBack r b n v go s = .next { s with
      reqs := s.reqs.set r { q with reg := v, phase := go },
      window := s.window.write .window (lineOffset b n) v,
      history := .memWrite r (lineAddr s b n) v :: s.history } := by
  obtain ⟨mapped, range⟩ := usable
  have address : lineAt (s.modReq r fun q => { q with reg := v, phase := go }) (lineAddr s b n) = some (lineOffset b n) :=
    lineAt_lineAddr (s := s.modReq r _) mapped range
  rw [writeBack, memWrite_of_lineAt address, State.modReq, modify_eq_set_of_getElem? _ port]

theorem releaseLock_of_port (port : s.reqs[r]? = some q) :
    releaseLock r s = { s with lockHeld := false, reqs := s.reqs.set r { q with rsp := 0x00#8, phase := .resp },
                               history := .response (.requester r) 0x00#8 :: .lockRelease r :: s.history } := by
  rw [releaseLock_eq, modify_eq_set_of_getElem? _ port]

end

/-! ## The gate -/

/-- A line command names a line (R62, R63). -/
theorem exists_line_of_requester {i : Instr} (h : i.portClass = .requester) : ∃ b n, lineOf i = some (b, n) := by
  cases i with
  | get | set | dirOut | dirIn => exact ⟨_, _, rfl⟩
  | attach | detach => cases h

/-- The banks' line counts, written out (R66, R111). -/
theorem bankCount_eq (b : Nat) : bankCount b = if b = 0 then 68 else if b = 1 then 23 else if b = 2 then 69 else 0 := by
  match b with
  | 0 | 1 | 2 => rfl
  | b + 3 => simp [bankCount]

/-- Settles O15. -/
theorem gateRefusesOutsideAttached : Obligations.GateRefusesOutsideAttached := by
  intro s i r q at_dec accepted outside
  have ⟨_, port, _⟩ := at_dec
  obtain ⟨b, n, line⟩ := exists_line_of_requester accepted
  rw [exec_of_dec at_dec line, lineGate_of_not_attached _ outside, raise_requester_of_port _ port, responseWord_wrongState]

/-- Settles O16. -/
theorem gateRefusesLineOutOfRange : Obligations.GateRefusesLineOutOfRange := by
  intro s i r b n q at_dec line attached past
  have ⟨_, port, _⟩ := at_dec
  rw [← bankCount_eq] at past
  have range : inRange b n = false := decide_eq_false (Nat.not_lt.mpr past)
  rw [exec_of_dec at_dec line, lineGate_of_not_inRange _ attached range, raise_requester_of_port _ port,
    responseWord_invalidLineIndex]

/-- Settles O17. -/
theorem gatePassesLineInRange : Obligations.GatePassesLineInRange := by
  intro s i r b n q at_dec line attached below
  have ⟨_, port, _⟩ := at_dec
  rw [← bankCount_eq] at below
  rw [exec_of_dec at_dec line, lineGate_of_inRange _ attached (decide_eq_true below) port]

/-! ## Under the lock -/

/-- Settles O19. -/
theorem acquireTakesFreeLockOrHolds : Obligations.AcquireTakesFreeLockOrHolds := by
  intro s i r q at_acq lock
  have ⟨_, port, _⟩ := at_acq
  rw [exec_of_acq at_acq lock, acquireLock_of_port port]

/-- Settles O20: `DIR_IN` has a write to make on an output line, the other two on an input line. -/
theorem lockedReadDecidesTheWrites : Obligations.LockedReadDecidesTheWrites := by
  intro s r b n q level at_rdl usable
  have ⟨_, port, _⟩ := at_rdl
  refine ⟨?_, ?_, ?_⟩
  · rw [exec_of_rdl at_rdl rfl rfl, readLocked_of_usable _ usable port]
    cases input : isInput (s.line (lineOffset b n)) <;> simp [afterRead, afterDirection, writesFrom, isSet, input]
  · rw [exec_of_rdl at_rdl rfl rfl, readLocked_of_usable _ usable port]
    simp [afterRead, afterDirection, writesFrom, isSet]
  · rw [exec_of_rdl at_rdl rfl rfl, readLocked_of_usable _ usable port]
    simp [afterRead, afterDirection, writesFrom, isSet]

/-- Settles O21. -/
theorem directionWriteStep : Obligations.DirectionWriteStep := by
  intro s r b n q at_w1 usable
  have ⟨_, port, _⟩ := at_w1
  constructor
  · rw [exec_of_w1 at_w1 rfl rfl, writeBack_of_usable _ _ usable port]
    rfl
  · rw [exec_of_w1 at_w1 rfl rfl, writeBack_of_usable _ _ usable port]
    rfl

/-- Settles O22. -/
theorem setWriteSteps : Obligations.SetWriteSteps := by
  intro s r b n q level usable
  constructor
  · intro at_w1
    have ⟨_, port, _⟩ := at_w1
    rw [exec_of_w1 at_w1 rfl rfl, writeBack_of_usable _ _ usable port]
    rfl
  · intro at_w2
    have ⟨_, port, _⟩ := at_w2
    rw [exec_set_of_w2 at_w2, writeBack_of_usable _ _ usable port]
    rfl

/-- Settles O23. -/
theorem releaseAnswersOk : Obligations.ReleaseAnswersOk := by
  intro s i r q at_rel lock
  have ⟨_, port, _⟩ := at_rel
  rw [exec_of_rel at_rel lock, releaseLock_of_port port]

/-- Settles O50: each of the two owns the lock. -/
theorem mutualExclusion : Obligations.MutualExclusion := by
  intro s r r' q q' inv port port' holds holds'
  have owner : s.lockOwner = r := (inv.owned r q port holds).2
  have owner' : s.lockOwner = r' := (inv.owned r' q' port' holds').2
  exact owner.symm.trans owner'

end Sys2Proof.Machine

/-!
PROOFS, part 11. Whole line commands, alone (R118 to R120), and a `GET` beside a `SET` (R129). Between its acquire and its release
a command is followed in one form of state, `State.underLock`; each step of its own is one equation of `execWith` on that form.
-/
namespace Sys2Proof.Machine

/-! ## A line register after its writes -/

section
variable {m : Memory} {s t : State} {o : Nat} {v : Byte}

@[simp] theorem outputLevel_withDirection (b : Byte) (x : Bool) : outputLevel (withDirection b x) = outputLevel b :=
  getLsbD_withDirection x (by decide)

@[simp] theorem outputLevel_withOutputLevel (b : Byte) (l : Bool) : outputLevel (withOutputLevel b l) = l :=
  getLsbD_withOutputLevel l (by decide)

@[simp] theorem lowBits_withDirection (b : Byte) (x : Bool) : lowBits (withDirection b x) = lowBits b := by
  revert b x; decide

@[simp] theorem lowBits_withOutputLevel (b : Byte) (l : Bool) : lowBits (withOutputLevel b l) = lowBits b := by
  revert b l; decide

/-- The register written holds the stored bits of the byte (R27). -/
theorem line_of_written (h : t.window = m.write .window o v) : t.line o = Space.stored .window v := by
  rw [State.line, h, Memory.read_write_same]

/-- No other register is written (R127). -/
theorem line_of_written_other (h : t.window = m.write .window o v) {a : Nat} (other : a ≠ o) : t.line a = m.read .window a := by
  rw [State.line, h, Memory.read_write_other _ _ _ other]

/-- What an input line's pad is driven at: nothing (R28). -/
theorem drives_of_input (h : isInput (s.line o) = true) : s.drives o = none := by rw [State.drives, h]; rfl

/-- What an output line's pad is driven at (R28). -/
theorem drives_of_output (h : isInput (s.line o) = false) : s.drives o = some (outputLevel (s.line o)) := by
  rw [State.drives, h]; rfl

end

/-! ## The steps between acquire and release -/

/-- A state reached from `s` by port `r`, which holds the lock, is in phase `p` with `reg` latched, and has made these accesses;
`q` are the port's latches before the command, `x` the free inputs of the latest step. -/
def State.underLock (s : State) (r : Nat) (q : Requester) (p : Phase) (reg : Byte) (w : Memory) (accesses : List Event)
    (x : Inputs) : State :=
  { s with lockHeld := true, lockOwner := r, reqs := s.reqs.set r { q with reg := reg, phase := p }, window := w,
           history := accesses ++ .lockAcquire r :: s.history, inputs := x }

/-- The state after the release step of port `r` (R124). -/
def State.afterCommand (s : State) (r : Nat) (q : Requester) (reg : Byte) (w : Memory) (accesses : List Event) (x : Inputs) :
    State :=
  { s with lockOwner := r, reqs := s.reqs.set r { q with reg := reg, rsp := 0x00#8, phase := .resp }, window := w,
           history := .response (.requester r) 0x00#8 :: .lockRelease r :: (accesses ++ .lockAcquire r :: s.history),
           inputs := x }

/-- The byte a read of a line answers when the step is given the free inputs `x` (R26). -/
def State.readLineWith (s : State) (o : Nat) (x : Inputs) : Byte :=
  withInputBit (s.line o) (if isInput (s.line o) then x.padIn else x.outputBit7)

section
variable {s : State} {i : Instr} {r b n : Nat} {q : Requester} {reg : Byte} {w : Memory} {accesses : List Event} {x : Inputs}
  {xs : List Inputs}

@[simp] theorem isInput_readLineWith (s : State) (o : Nat) (x : Inputs) :
    isInput (s.readLineWith o x) = isInput (s.line o) := isInput_withInputBit _ _

@[simp] theorem outputLevel_readLineWith (s : State) (o : Nat) (x : Inputs) :
    outputLevel (s.readLineWith o x) = outputLevel (s.line o) := outputLevel_withInputBit _ _

@[simp] theorem lowBits_readLineWith (s : State) (o : Nat) (x : Inputs) :
    lowBits (s.readLineWith o x) = lowBits (s.line o) := lowBits_withInputBit _ _

/-- It is the turn of the port that was set. -/
theorem requesterAt_set {t : State} {p : Requester} (turn : t.turn = .requester r) (port : s.reqs[r]? = some q)
    (ports : t.reqs = s.reqs.set r p) : RequesterAt t r p p.phase := by
  refine ⟨turn, ?_, rfl⟩
  rw [ports]
  exact List.getElem?_set_self (List.getElem?_eq_some_iff.mp port).1

theorem requesterAt_underLock (turn : s.turn = .requester r) (port : s.reqs[r]? = some q) (p : Phase) :
    RequesterAt (s.underLock r q p reg w accesses x) r { q with reg := reg, phase := p } p :=
  requesterAt_set turn port rfl

/-- The gate and then the acquire, with the lock free (R113, R116). -/
theorem execWith_to_lock (x y : Inputs) (at_dec : RequesterAt s r q .dec) (attached : s.lc = .attached)
    (free : s.lockHeld = false) (range : inRange b n = true) (lock : takesLock i = true) (line : lineOf i = some (b, n)) :
    execWith i (x :: y :: xs) s = execWith i xs (s.underLock r q .rdl q.reg s.window [] y) := by
  have ⟨turn, port, phase⟩ := at_dec
  have admitted : exec i { s with inputs := x } =
      .next { s with inputs := x, reqs := s.reqs.set r { q with phase := .acq } } := by
    rw [exec_of_dec (s := { s with inputs := x }) at_dec line,
      lineGate_of_inRange (s := { s with inputs := x }) _ attached range port, lock]
    rfl
  have acquired : exec i { s with inputs := y, reqs := s.reqs.set r { q with phase := .acq } } =
      .next (s.underLock r q .rdl q.reg s.window [] y) := by
    have at_acq : RequesterAt { s with inputs := y, reqs := s.reqs.set r { q with phase := .acq } } r
        { q with phase := .acq } .acq := requesterAt_set turn port rfl
    rw [exec_of_acq at_acq lock, acquireLock_of_port at_acq.2.1, if_neg (by simp [free])]
    simp only [List.set_set]
    rfl
  rw [execWith_cons_of_next admitted, execWith_cons_of_next acquired]

/-- The locked read (R117). -/
theorem execWith_locked_read (y : Inputs) (turn : s.turn = .requester r) (port : s.reqs[r]? = some q)
    (usable : LineUsable s b n) (lock : takesLock i = true) (line : lineOf i = some (b, n)) :
    execWith i (y :: xs) (s.underLock r q .rdl reg s.window accesses x) = execWith i xs
      (s.underLock r q (afterRead i (s.readLineWith (lineOffset b n) y)) (s.readLineWith (lineOffset b n) y) s.window
        (.memRead r (lineAddr s b n) (s.readLineWith (lineOffset b n) y) :: accesses) y) := by
  have at_rdl := requesterAt_underLock (reg := reg) (w := s.window) (accesses := accesses) (x := y) turn port .rdl
  have usable_there : LineUsable (s.underLock r q .rdl reg s.window accesses y) b n := usable
  have read := exec_of_rdl at_rdl lock line
  rw [readLocked_of_usable _ usable_there at_rdl.2.1] at read
  refine (execWith_cons_of_next read).trans ?_
  simp only [State.underLock, List.set_set]
  rfl

/-- The direction write (R121, R122). -/
theorem execWith_direction_write (y : Inputs) (turn : s.turn = .requester r) (port : s.reqs[r]? = some q)
    (usable : LineUsable s b n) (lock : takesLock i = true) (line : lineOf i = some (b, n)) :
    execWith i (y :: xs) (s.underLock r q .w1 reg w accesses x) = execWith i xs
      (s.underLock r q (afterDirection i) (withDirection reg (!writesFrom i))
        (w.write .window (lineOffset b n) (withDirection reg (!writesFrom i)))
        (.memWrite r (lineAddr s b n) (withDirection reg (!writesFrom i)) :: accesses) y) := by
  have at_w1 := requesterAt_underLock (reg := reg) (w := w) (accesses := accesses) (x := y) turn port .w1
  have usable_there : LineUsable (s.underLock r q .w1 reg w accesses y) b n := usable
  have written := exec_of_w1 at_w1 lock line
  rw [writeBack_of_usable _ _ usable_there at_w1.2.1] at written
  refine (execWith_cons_of_next written).trans ?_
  simp only [State.underLock, List.set_set]
  rfl

/-- The level write of `SET` (R123). -/
theorem execWith_level_write (y : Inputs) (level : Bool) (turn : s.turn = .requester r) (port : s.reqs[r]? = some q)
    (usable : LineUsable s b n) :
    execWith (.set b n level) (y :: xs) (s.underLock r q .w2 reg w accesses x) = execWith (.set b n level) xs
      (s.underLock r q .rel (withOutputLevel reg level) (w.write .window (lineOffset b n) (withOutputLevel reg level))
        (.memWrite r (lineAddr s b n) (withOutputLevel reg level) :: accesses) y) := by
  have at_w2 := requesterAt_underLock (reg := reg) (w := w) (accesses := accesses) (x := y) turn port .w2
  have usable_there : LineUsable (s.underLock r q .w2 reg w accesses y) b n := usable
  have written := exec_set_of_w2 (b := b) (n := n) (level := level) at_w2
  rw [writeBack_of_usable _ _ usable_there at_w2.2.1] at written
  refine (execWith_cons_of_next written).trans ?_
  simp only [State.underLock, List.set_set]
  rfl

/-- The release step ends the command (R124). -/
theorem execWith_release (y : Inputs) (turn : s.turn = .requester r) (port : s.reqs[r]? = some q) (free : s.lockHeld = false)
    (lock : takesLock i = true) :
    execWith i [y] (s.underLock r q .rel reg w accesses x) = .next (s.afterCommand r q reg w accesses y) := by
  have at_rel := requesterAt_underLock (reg := reg) (w := w) (accesses := accesses) (x := y) turn port .rel
  have released := exec_of_rel at_rel lock
  rw [releaseLock_of_port at_rel.2.1] at released
  refine (execWith_cons_of_next released).trans ?_
  simp only [execWith, State.underLock, State.afterCommand, List.set_set, free]

/-- From its decode step with the lock free a command comes to the end of its locked read in three steps (R113, R116, R117). -/
theorem execWith_to_read (x1 x2 x3 : Inputs) (at_dec : RequesterAt s r q .dec) (attached : s.lc = .attached)
    (free : s.lockHeld = false) (usable : LineUsable s b n) (lock : takesLock i = true) (line : lineOf i = some (b, n)) :
    execWith i (x1 :: x2 :: x3 :: xs) s = execWith i xs
      (s.underLock r q (afterRead i (s.readLineWith (lineOffset b n) x3)) (s.readLineWith (lineOffset b n) x3) s.window
        [.memRead r (lineAddr s b n) (s.readLineWith (lineOffset b n) x3)] x3) := by
  have ⟨turn, port, _⟩ := at_dec
  rw [execWith_to_lock x1 x2 at_dec attached free usable.2 lock line,
    execWith_locked_read x3 turn port usable lock line]

end

/-! ## Whole commands -/

section
variable {s : State} {i : Instr} {r b n : Nat} {q : Requester}

/-- A locked command that finds nothing to write ends in four steps (R118, R119). -/
theorem execWith_without_write (x1 x2 x3 x4 : Inputs) (at_dec : RequesterAt s r q .dec) (attached : s.lc = .attached)
    (free : s.lockHeld = false) (usable : LineUsable s b n) (lock : takesLock i = true) (line : lineOf i = some (b, n))
    (done : ∀ v, isInput v = isInput (s.line (lineOffset b n)) → afterRead i v = .rel) :
    execWith i [x1, x2, x3, x4] s = .next
      (s.afterCommand r q (s.readLineWith (lineOffset b n) x3) s.window
        [.memRead r (lineAddr s b n) (s.readLineWith (lineOffset b n) x3)] x4) := by
  have ⟨turn, port, _⟩ := at_dec
  rw [execWith_to_read x1 x2 x3 at_dec attached free usable lock line, done _ (isInput_readLineWith _ _ _),
    execWith_release x4 turn port free lock]

/-- `DIR_IN` or `DIR_OUT` on a line of the other direction ends in five steps, with one write (R118, R119, R121). -/
theorem execWith_direction_change (x1 x2 x3 x4 x5 : Inputs) (at_dec : RequesterAt s r q .dec) (attached : s.lc = .attached)
    (free : s.lockHeld = false) (usable : LineUsable s b n) (lock : takesLock i = true) (line : lineOf i = some (b, n))
    (changes : isInput (s.line (lineOffset b n)) = writesFrom i) (not_set : isSet i = false) :
    execWith i [x1, x2, x3, x4, x5] s = .next
      (s.afterCommand r q (withDirection (s.readLineWith (lineOffset b n) x3) (!writesFrom i))
        (s.window.write .window (lineOffset b n) (withDirection (s.readLineWith (lineOffset b n) x3) (!writesFrom i)))
        [.memWrite r (lineAddr s b n) (withDirection (s.readLineWith (lineOffset b n) x3) (!writesFrom i)),
          .memRead r (lineAddr s b n) (s.readLineWith (lineOffset b n) x3)] x5) := by
  have ⟨turn, port, _⟩ := at_dec
  have to_write : afterRead i (s.readLineWith (lineOffset b n) x3) = .w1 :=
    if_pos ((isInput_readLineWith _ _ _).trans changes)
  have to_release : afterDirection i = .rel := by simp [afterDirection, not_set]
  rw [execWith_to_read x1 x2 x3 at_dec attached free usable lock line, to_write,
    execWith_direction_write x4 turn port usable lock line, to_release, execWith_release x5 turn port free lock]

end

/-- Settles O24. -/
theorem dirInWritesOnlyAnOutputLine : Obligations.DirInWritesOnlyAnOutputLine := by
  intro s r b n q x1 x2 x3 x4 x5 at_dec attached free usable
  constructor
  · intro output v
    have read : s.readLineWith (lineOffset b n) x3 = v := by rw [State.readLineWith, output]; rfl
    have ran := execWith_direction_change (i := .dirIn b n) x1 x2 x3 x4 x5 at_dec attached free usable rfl rfl output rfl
    refine ⟨_, ran, ?_, ?_, ?_, ?_, ?_⟩
    · rw [read]; rfl
    · exact drives_of_input (by rw [line_of_written rfl]; simp [writesFrom])
    · rw [line_of_written rfl]; simp
    · rw [line_of_written rfl]; simp
    · exact fun a other => line_of_written_other rfl other
  · intro input v
    have read : s.readLineWith (lineOffset b n) x3 = v := by rw [State.readLineWith, input]; rfl
    rw [execWith_without_write x1 x2 x3 x4 at_dec attached free usable rfl rfl
      (fun u same => by simp [afterRead, afterDirection, writesFrom, isSet, same, input]), read]
    rfl

/-- Settles O25. -/
theorem dirOutDrivesTheStoredLevel : Obligations.DirOutDrivesTheStoredLevel := by
  intro s r b n q x1 x2 x3 x4 x5 at_dec attached free usable
  constructor
  · intro input v
    have read : s.readLineWith (lineOffset b n) x3 = v := by rw [State.readLineWith, input]; rfl
    have ran := execWith_direction_change (i := .dirOut b n) x1 x2 x3 x4 x5 at_dec attached free usable rfl rfl input rfl
    refine ⟨_, ran, ?_, ?_, ?_, ?_⟩
    · rw [read]; rfl
    · rw [drives_of_output (by rw [line_of_written rfl]; simp [writesFrom]), line_of_written rfl]; simp
    · rw [line_of_written rfl]; simp
    · exact fun a other => line_of_written_other rfl other
  · intro output v
    have read : s.readLineWith (lineOffset b n) x3 = v := by rw [State.readLineWith, output]; rfl
    rw [execWith_without_write x1 x2 x3 x4 at_dec attached free usable rfl rfl
      (fun u same => by simp [afterRead, afterDirection, writesFrom, isSet, same, output]), read]
    rfl

/-- Settles O26: the level write finds the byte that the direction write latched. -/
theorem setOnInputLineWritesTwice : Obligations.SetOnInputLineWritesTwice := by
  intro s r b n q level x1 x2 x3 x4 x5 x6 at_dec attached free usable input v w1 w2
  have ⟨turn, port, _⟩ := at_dec
  have read : s.readLineWith (lineOffset b n) x3 = v := by rw [State.readLineWith, input]; rfl
  have to_direction : afterRead (.set b n level) (s.readLineWith (lineOffset b n) x3) = .w1 :=
    if_pos ((isInput_readLineWith _ _ _).trans input)
  have ran : execWith (.set b n level) [x1, x2, x3, x4, x5, x6] s = .next
      (s.afterCommand r q w2 ((s.window.write .window (lineOffset b n) w1).write .window (lineOffset b n) w2)
        [.memWrite r (lineAddr s b n) w2, .memWrite r (lineAddr s b n) w1, .memRead r (lineAddr s b n) v] x6) := by
    rw [execWith_to_read x1 x2 x3 at_dec attached free usable rfl rfl, to_direction, read,
      execWith_direction_write x4 turn port usable rfl rfl]
    exact (execWith_level_write x5 level turn port usable).trans (execWith_release x6 turn port free rfl)
  have written : w2 = withOutputLevel (withDirection (s.readLineWith (lineOffset b n) x3) false) level := by rw [read]; rfl
  refine ⟨_, ran, rfl, ?_, ?_, ?_⟩
  · rw [drives_of_output (by rw [line_of_written rfl, written]; simp), line_of_written rfl, written]; simp
  · rw [line_of_written rfl, written]; simp
  · exact fun a other => (line_of_written_other rfl other).trans (Memory.read_write_other _ _ _ other)

/-- Settles O27: no case depends on the level that the line has. -/
theorem setOnOutputLineWritesOnce : Obligations.SetOnOutputLineWritesOnce := by
  intro s r b n q level x1 x2 x3 x4 x5 at_dec attached free usable output v w
  have ⟨turn, port, _⟩ := at_dec
  have read : s.readLineWith (lineOffset b n) x3 = v := by rw [State.readLineWith, output]; rfl
  have to_level : afterRead (.set b n level) (s.readLineWith (lineOffset b n) x3) = .w2 :=
    if_neg (by simp [output, writesFrom])
  have ran : execWith (.set b n level) [x1, x2, x3, x4, x5] s = .next
      (s.afterCommand r q w (s.window.write .window (lineOffset b n) w)
        [.memWrite r (lineAddr s b n) w, .memRead r (lineAddr s b n) v] x5) := by
    rw [execWith_to_read x1 x2 x3 at_dec attached free usable rfl rfl, to_level, read]
    exact (execWith_level_write x4 level turn port usable).trans (execWith_release x5 turn port free rfl)
  have written : w = withOutputLevel (s.readLineWith (lineOffset b n) x3) level := by rw [read]; rfl
  refine ⟨_, ran, rfl, ?_, ?_, ?_⟩
  · rw [drives_of_output (by rw [line_of_written rfl, written]; simp [output]), line_of_written rfl, written]; simp
  · rw [line_of_written rfl, written]; simp
  · exact fun a other => line_of_written_other rfl other

/-! ## `GET` beside `SET` -/

section
variable {s : State} {r b n : Nat} {q : Requester}

/-- Given the turn in its read phase, a `GET` answers the pad of an input line and the stored level of an output line (R102,
R114). -/
theorem exec_get_answer (port : s.reqs[r]? = some q) (reading : q.phase = .rdu) (usable : LineUsable s b n) :
    ∃ t, exec (.get b n) { s with turn := .requester r } = .next t ∧ t.reqs[r]?.map Requester.rsp =
      some (responseWord (if isInput (s.line (lineOffset b n)) then s.inputs.padIn
        else outputLevel (s.line (lineOffset b n))) 0#4) := by
  have usable_there : LineUsable { s with turn := .requester r } b n := usable
  have answered := exec_get_of_rdu (s := { s with turn := .requester r }) (b := b) (n := n) ⟨rfl, port, reading⟩
  refine ⟨_, answered.trans (readUnlocked_of_usable (q := q) usable_there port), ?_⟩
  rw [List.getElem?_set_self (List.getElem?_eq_some_iff.mp port).1, readLevel_readLine]
  rfl

/-- Given the turn in its direction write, a `SET` latches and writes the byte with the direction cleared and goes to its level
write; every other port stays as it is (R122). -/
theorem exec_set_direction_write (level : Bool) (at_w1 : RequesterAt s r q .w1) (usable : LineUsable s b n) :
    ∃ t, exec (.set b n level) s = .next t ∧
      RequesterAt t r { q with reg := withDirection q.reg false, phase := .w2 } .w2 ∧ LineUsable t b n ∧
      t.line (lineOffset b n) = Space.stored .window (withDirection q.reg false) ∧
      ∀ r', r' ≠ r → t.reqs[r']? = s.reqs[r']? := by
  have ⟨turn, port, _⟩ := at_w1
  have written := exec_of_w1 (i := .set b n level) at_w1 rfl rfl
  rw [writeBack_of_usable _ _ usable port] at written
  exact ⟨_, written, requesterAt_set turn port rfl, usable, line_of_written rfl,
    fun _ other => List.getElem?_set_ne (Ne.symm other)⟩

/-- Given the turn in its level write, a `SET` writes the latched byte with the level put in (R123). -/
theorem exec_set_level_write (level : Bool) (at_w2 : RequesterAt s r q .w2) (usable : LineUsable s b n) :
    ∃ t, exec (.set b n level) s = .next t ∧ LineUsable t b n ∧
      t.line (lineOffset b n) = Space.stored .window (withOutputLevel q.reg level) ∧
      ∀ r', r' ≠ r → t.reqs[r']? = s.reqs[r']? := by
  have ⟨_, port, _⟩ := at_w2
  have written := exec_set_of_w2 (b := b) (n := n) (level := level) at_w2
  rw [writeBack_of_usable _ _ usable port] at written
  exact ⟨_, written, usable, line_of_written rfl, fun _ other => List.getElem?_set_ne (Ne.symm other)⟩

end

/-- Settles O28: what a `GET` answers is the line's pad or level, and the two writes make the line an output at the old level
and then at the new one. -/
theorem getNextToSetSeesThreeLevels : Obligations.GetNextToSetSeesThreeLevels := by
  intro s r r' b n q q' level at_w1 other port' reading usable input latched
  obtain ⟨s1, first, at_w2, usable1, line1, kept1⟩ := exec_set_direction_write level at_w1 usable
  obtain ⟨s2, second, usable2, line2, kept2⟩ := exec_set_level_write level at_w2 usable1
  have port1 : s1.reqs[r']? = some q' := (kept1 r' other).trans port'
  have port2 : s2.reqs[r']? = some q' := (kept2 r' other).trans port1
  obtain ⟨t0, got0, answer0⟩ := exec_get_answer port' reading usable
  obtain ⟨t1, got1, answer1⟩ := exec_get_answer port1 reading usable1
  obtain ⟨t2, got2, answer2⟩ := exec_get_answer port2 reading usable2
  refine ⟨s1, s2, t0, t1, t2, first, second, got0, got1, got2, ?_, ?_, ?_⟩
  · simpa [input] using answer0
  · simpa [line1, ← latched] using answer1
  · simpa [line2] using answer2

end Sys2Proof.Machine

/-!
PROOFS, part 12. What a step of a line command leaves alone (R110, R115, R127, R178), whatever word the port has latched.
-/
namespace Sys2Proof.Machine

/-- What a step of a line command on `(b, n)` at port `r` may do to a state: change the latches of its own port; as a command
that takes the lock, also move the lock, or write the register that its address resolves to. The first index says whether the
command takes the lock (R113 to R124). -/
inductive LineEffect (s : State) (r b n : Nat) : Bool → State → Prop
  | latched (lock : Bool) (ports : List Requester) (history : List Event)
      (others : ∀ r', r' ≠ r → ports[r']? = s.reqs[r']?) :
    LineEffect s r b n lock { s with reqs := ports, history := history }
  | lockMoved (held : Bool) (owner : Nat) (ports : List Requester) (history : List Event)
      (others : ∀ r', r' ≠ r → ports[r']? = s.reqs[r']?) :
    LineEffect s r b n true { s with lockHeld := held, lockOwner := owner, reqs := ports, history := history }
  | written (o : Nat) (v : Byte) (ports : List Requester) (history : List Event)
      (address : lineAt s (lineAddr s b n) = some o) (others : ∀ r', r' ≠ r → ports[r']? = s.reqs[r']?) :
    LineEffect s r b n true { s with window := s.window.write .window o v, reqs := ports, history := history }

section
variable {s t : State} {i : Instr} {r b n : Nat}

/-! ## The effect of each operation -/

theorem LineEffect.of_lineGate (lock : Bool) (go : Phase) : LineEffect s r b n lock (lineGate r b n go s) := by
  rcases lineGate_cases r b n go s with ⟨_, e⟩ | ⟨_, _, e⟩ | ⟨_, _, e⟩ <;> rw [e] <;>
    exact .latched _ _ _ fun _ other => modReq_reqs_other s _ other

theorem LineEffect.of_readUnlocked (h : readUnlocked r b n s = .next t) : LineEffect s r b n false t := by
  obtain ⟨o, _, rfl⟩ := readUnlocked_eq_next h
  exact .latched _ _ _ fun _ other =>
    (modReq_reqs_other (s.modReq r _) _ other).trans (modReq_reqs_other s _ other)

theorem LineEffect.of_acquireLock : LineEffect s r b n true (acquireLock r s) := by
  rcases acquireLock_cases r s with ⟨_, e⟩ | ⟨_, e⟩ <;> rw [e]
  · exact .latched _ _ _ fun _ _ => rfl
  · exact .lockMoved _ _ _ _ fun _ other => modReq_reqs_other s _ other

theorem LineEffect.of_readLocked {go : Byte → Phase} (h : readLocked r b n go s = .next t) : LineEffect s r b n true t := by
  obtain ⟨o, _, rfl⟩ := readLocked_eq_next h
  exact .latched _ _ _ fun _ other => modReq_reqs_other s _ other

theorem LineEffect.of_writeBack {v : Byte} {go : Phase} (h : writeBack r b n v go s = .next t) :
    LineEffect s r b n true t := by
  obtain ⟨o, address, rfl⟩ := writeBack_eq_next h
  exact .written o v _ _ address fun _ other => modReq_reqs_other s _ other

theorem LineEffect.of_releaseLock : LineEffect s r b n true (releaseLock r s) :=
  .lockMoved _ _ _ _ fun _ other => modReq_reqs_other s _ other

/-! ## The effect of each command -/

theorem LineEffect.of_execGet (turn : s.turn = .requester r) (h : execGet b n s = .next t) :
    LineEffect s r b n false t := by
  rcases onRequester_eq_next h with ⟨r', q, turn', _, h⟩ | ⟨turn', _⟩ <;> rw [turn] at turn' <;> cases turn'
  cases phase : q.phase <;> simp only [phase] at h
  case dec => cases h; exact .of_lineGate _ _
  case rdu => exact .of_readUnlocked h
  all_goals cases h

theorem LineEffect.of_execSet {level : Bool} (turn : s.turn = .requester r) (h : execSet b n level s = .next t) :
    LineEffect s r b n true t := by
  rcases onRequester_eq_next h with ⟨r', q, turn', _, h⟩ | ⟨turn', _⟩ <;> rw [turn] at turn' <;> cases turn'
  cases phase : q.phase <;> simp only [phase] at h
  case dec => cases h; exact .of_lineGate _ _
  case acq => cases h; exact .of_acquireLock
  case rdl => exact .of_readLocked h
  case w1 => exact .of_writeBack h
  case w2 => exact .of_writeBack h
  case rel => cases h; exact .of_releaseLock
  all_goals cases h

theorem LineEffect.of_directionStep {input : Bool} (turn : s.turn = .requester r)
    (h : directionStep input b n s = .next t) : LineEffect s r b n true t := by
  rcases onRequester_eq_next h with ⟨r', q, turn', _, h⟩ | ⟨turn', _⟩ <;> rw [turn] at turn' <;> cases turn'
  cases phase : q.phase <;> simp only [phase] at h
  case dec => cases h; exact .of_lineGate _ _
  case acq => cases h; exact .of_acquireLock
  case rdl => exact .of_readLocked h
  case w1 => exact .of_writeBack h
  case rel => cases h; exact .of_releaseLock
  all_goals cases h

/-- A step of a line command at a requester port has one of these effects, in every phase of the port. -/
theorem LineEffect.of_exec (turn : s.turn = .requester r) (line : lineOf i = some (b, n)) (h : exec i s = .next t) :
    LineEffect s r b n (takesLock i) t := by
  cases i <;> cases line
  case get => exact .of_execGet turn h
  case set => exact .of_execSet turn h
  case dirOut => exact .of_directionStep turn h
  case dirIn => exact .of_directionStep turn h

/-! ## The frame -/

section
variable {lock : Bool} (h : LineEffect s r b n lock t)
include h

theorem LineEffect.frame :
    t = { s with reqs := t.reqs, window := t.window, lockHeld := t.lockHeld, lockOwner := t.lockOwner,
                 history := t.history } := by
  cases h <;> rfl

theorem LineEffect.other_port {r' : Nat} (other : r' ≠ r) : t.reqs[r']? = s.reqs[r']? := by
  cases h with
  | latched _ _ _ others => exact others r' other
  | lockMoved _ _ _ _ others => exact others r' other
  | written _ _ _ _ _ others => exact others r' other

/-- A register elsewhere than at the command's address is left alone (R127). -/
theorem LineEffect.line_eq {a : Nat} (elsewhere : lineAt s (lineAddr s b n) ≠ some a) : t.line a = s.line a := by
  cases h with
  | latched | lockMoved => rfl
  | written o v _ _ address =>
    refine line_of_written_other rfl ?_
    rintro rfl
    exact elsewhere address

end

/-- A command that takes no lock leaves the window and the lock alone (R114). -/
theorem LineEffect.unlocked (h : LineEffect s r b n false t) :
    t.window = s.window ∧ t.lockHeld = s.lockHeld ∧ t.lockOwner = s.lockOwner := by
  cases h
  exact ⟨rfl, rfl, rfl⟩

end

/-- Settles O29. -/
theorem lineCommandFrame : Obligations.LineCommandFrame := by
  intro s t i r b n turn line h
  have effect := LineEffect.of_exec turn line h
  refine ⟨effect.frame, fun r' other => effect.other_port other, fun a elsewhere => effect.line_eq elsewhere, fun lock => ?_⟩
  rw [lock] at effect
  exact effect.unlocked

/-- A step that runs no command writes no line register. -/
theorem outsideStep_window (s : State) : (outsideStep s).window = s.window := by
  rcases outsideStep_cases s with e | ⟨_, _, _, _, _, _, _, e⟩ | ⟨_, _, _, _, _, e⟩ | ⟨_, _, _, _, e⟩ | ⟨_, _, e⟩ |
    ⟨_, _, e⟩ <;> rw [e] <;> rfl

/-- The word fetched on a requester's turn is the one its port has latched (R20). -/
theorem cmd_of_fetch {s : State} {r : Nat} {q : Requester} {w : Command} (turn : s.turn = .requester r)
    (port : s.reqs[r]? = some q) (fetched : fetch s = some w) : q.cmd = w := by
  rcases fetch_eq_some fetched with ⟨r', q', turn', port', _, _, cmd⟩ | ⟨turn', _⟩ <;> rw [turn] at turn' <;> cases turn'
  rw [port] at port'
  cases port'
  exact cmd

/-- Settles O30: the command's address resolves to no other line than its own. -/
theorem linesDoNotInterfere : Obligations.LinesDoNotInterfere := by
  intro s t i r b n q turn port decodes line range h a other
  rcases step_eq_next h with ⟨w, j, u, fetched, decoded, ran, rfl⟩ | ⟨w, e, u, fetched, reserved, _, _⟩ | ⟨_, rfl⟩
  · obtain rfl : q.cmd = w := cmd_of_fetch turn port fetched
    rw [decodes] at decoded
    cases decoded
    have elsewhere : lineAt s (lineAddr s b n) ≠ some a := by
      intro resolves
      rw [lineAt_lineAddr (lineAt_eq_some.mp resolves).1 range] at resolves
      exact other (Option.some.inj resolves).symm
    rw [State.line, State.draw_window]
    exact (LineEffect.of_exec turn line ran).line_eq elsewhere
  · obtain rfl : q.cmd = w := cmd_of_fetch turn port fetched
    rw [decodes] at reserved
    cases reserved
  · rw [State.line, State.draw_window, outsideStep_window, State.line]

end Sys2Proof.Machine

/-!
PROOFS, part 13. Progress. An enabled step of a sequencer is one of the listed steps and no hold (R8, R116, R152); it brings the
command nearer to its response, and the steps of other agents leave the sequencer where it is. So a lock holder reaches its release
(R116), and in a fair run every command in flight is answered (R204).
-/
namespace Sys2Proof.Machine

/-! ## An enabled step is no hold -/

section
variable {s t u : State} {r : Nat} {q : Requester} {i : Instr}

/-- A command that fits a phase from the acquire to the release takes the lock (R20). -/
theorem takesLock_of_fitsPhase {p : Phase} {reg : Byte} (phase : p ∈ [Phase.acq, .rdl, .w1, .w2, .rel])
    (fit : fitsPhase p i reg = true) : takesLock i = true := by
  have ready : lineReady true i = true := by
    simp only [List.mem_cons, List.not_mem_nil, or_false] at phase
    rcases phase with rfl | rfl | rfl | rfl | rfl <;> simp_all [fitsPhase]
  exact (lineReady_iff.mp ready).1

/-- The command of a requester in its unlocked read is a `GET` (R20). -/
theorem eq_get_of_fitsPhase {reg : Byte} (fit : fitsPhase .rdu i reg = true) : ∃ b n, i = .get b n := by
  cases i with
  | get b n => exact ⟨b, n, rfl⟩
  | set | dirOut | dirIn | attach | detach => cases fit

/-- The command of a requester in its level write is a `SET` (R20). -/
theorem eq_set_of_fitsPhase {reg : Byte} (fit : fitsPhase .w2 i reg = true) : ∃ b n level, i = .set b n level := by
  cases i with
  | set b n level => exact ⟨b, n, level, rfl⟩
  | get | dirOut | dirIn | attach | detach => simp [fitsPhase, isSet] at fit

/-- At its decode step a requester refuses its command or admits it (R69, R113). -/
theorem RequesterStep.of_exec_dec (turn : s.turn = .requester r) (port : s.reqs[r]? = some q) (phase : q.phase = .dec)
    (decodes : decode q.cmd = .ok i) (h : exec i s = .next u) : RequesterStep s r q u := by
  cases accepted : i.portClass with
  | requester =>
    obtain ⟨b, n, line⟩ := exists_line_of_requester accepted
    rw [exec_of_dec ⟨turn, port, phase⟩ line] at h
    cases h
    exact .of_lineGate port phase decodes line
  | lifecycle =>
    rw [exec_lifecycle_command_on_requester ⟨turn, port, phase⟩ accepted] at h
    cases h
    exact .of_raise _ port phase

/-- Past its gate a requester takes the step of its phase, unless it waits for the lock (R114 to R124). -/
theorem RequesterStep.of_exec_busy (turn : s.turn = .requester r) (port : s.reqs[r]? = some q) (busy : q.phase.busy = true)
    (free : q.phase = .acq → s.lockHeld = false) (decodes : decode q.cmd = .ok i) (fit : fitsPhase q.phase i q.reg = true)
    (h : exec i s = .next u) : RequesterStep s r q u := by
  obtain ⟨b, n, line, _⟩ := exists_line_of_fitsPhase busy fit
  cases phase : q.phase <;> rw [phase] at fit busy
  case idle | dec | resp => cases busy
  case rdu =>
    obtain ⟨b, n, rfl⟩ := eq_get_of_fitsPhase fit
    rw [exec_get_of_rdu ⟨turn, port, phase⟩] at h
    exact .of_readUnlocked port phase decodes h
  case acq =>
    have lock := takesLock_of_fitsPhase (by decide) fit
    rw [exec_of_acq ⟨turn, port, phase⟩ lock, acquireLock_of_port port, free phase] at h
    cases h
    exact .acquired i phase decodes lock (free phase)
  case rdl =>
    have lock := takesLock_of_fitsPhase (by decide) fit
    rw [exec_of_rdl ⟨turn, port, phase⟩ lock line] at h
    exact .of_readLocked port phase decodes line lock rfl h
  case w1 =>
    have lock := takesLock_of_fitsPhase (by decide) fit
    rw [exec_of_w1 ⟨turn, port, phase⟩ lock line] at h
    exact .of_writeDirection port phase decodes line lock h
  case w2 =>
    obtain ⟨b, n, level, rfl⟩ := eq_set_of_fitsPhase fit
    rw [exec_set_of_w2 ⟨turn, port, phase⟩] at h
    exact .of_writeLevel port phase decodes h
  case rel =>
    have lock := takesLock_of_fitsPhase (by decide) fit
    rw [exec_of_rel ⟨turn, port, phase⟩ lock] at h
    cases h
    exact .of_releaseLock port phase decodes lock

theorem Phase.dec_or_busy {p : Phase} (idle : p ≠ .idle) (resp : p ≠ .resp) : p = .dec ∨ p.busy = true := by
  revert idle resp; cases p <;> decide

/-- An enabled step of a requester is one of the listed steps. -/
theorem Inv.requesterStep_of_enabled (inv : Inv s) (turn : s.turn = .requester r) (port : s.reqs[r]? = some q)
    (enabled : s.enabled (.requester r) = true) (h : step s = .next t) : ∃ u, RequesterStep s r q u ∧ t = u.draw := by
  obtain ⟨idle, resp, free⟩ := (enabled_requester port).mp enabled
  rcases step_eq_next h with ⟨w, i, u, fetched, decodes, ran, rfl⟩ | ⟨w, e, u, fetched, _, answered, rfl⟩ | ⟨none_fetched, _⟩
  · obtain rfl : q.cmd = w := cmd_of_fetch turn port fetched
    refine ⟨u, ?_, rfl⟩
    rcases Phase.dec_or_busy idle resp with dec | busy
    · exact .of_exec_dec turn port dec decodes ran
    · exact .of_exec_busy turn port busy free decodes ((inv.fits r q port).fitsPhase busy decodes) ran
  · rcases answerReserved_eq_next answered with ⟨r', q', turn', port', dec, rfl⟩ | ⟨turn', _⟩ <;> rw [turn] at turn' <;>
      cases turn'
    rw [port] at port'
    cases port'
    exact ⟨_, .of_raise _ port dec, rfl⟩
  · simp [fetch, turn, port, idle, resp] at none_fetched

/-- Every step of `DETACH` but the drain moves to another phase (R151 to R156). -/
theorem execDetach_moves (turn : s.turn = .lifecycle) (moving : s.lstep ≠ .dwait) (h : execDetach s = .next u) :
    u.lstep ≠ s.lstep := by
  rw [execDetach, onLifecycle_of_turn turn] at h
  cases phase : s.lstep <;> simp only [phase] at h
  case dec => cases h; split <;> exact nofun
  case dwait => exact absurd phase moving
  case unreg2 | unreg1 | unreg0 | unmap | rrel => cases h; exact nofun
  all_goals cases h

/-- The lifecycle port takes the step of its phase, unless a drain waits for a busy requester (R141 to R156). -/
theorem LifecycleStep.of_exec (turn : s.turn = .lifecycle) (decodes : decode s.lcmd = .ok i)
    (quiet : s.lstep = .dwait → ∀ (r : Nat) (q : Requester), s.reqs[r]? = some q → q.phase.busy = false)
    (h : exec i s = .next u) : LifecycleStep s u := by
  cases i with
  | get b n => exact onRequester_cases turn h
  | set b n level => exact onRequester_cases turn h
  | dirOut b n => exact onRequester_cases turn h
  | dirIn b n => exact onRequester_cases turn h
  | attach => exact execAttach_cases turn (eq_of_decode_attach decodes) h
  | detach =>
    by_cases waiting : s.lstep = .dwait
    · rw [exec, execDetach, onLifecycle_of_turn turn, waiting] at h
      cases h
      rcases drain_cases s with ⟨⟨r, q, port, busy⟩, _⟩ | ⟨idle, e⟩
      · rw [quiet waiting r q port] at busy
        cases busy
      · rw [e]
        exact .drained waiting idle
    · rcases execDetach_cases turn (eq_of_decode_detach decodes) h with rfl | move
      · exact absurd rfl (execDetach_moves turn waiting h)
      · exact move

/-- An enabled step of the lifecycle port is one of the listed steps. -/
theorem lifecycleStep_of_enabled (turn : s.turn = .lifecycle) (enabled : s.enabled .lifecycle = true) (h : step s = .next t) :
    ∃ u, LifecycleStep s u ∧ t = u.draw := by
  obtain ⟨idle, resp, quiet⟩ := (enabled_lifecycle s).mp enabled
  rcases step_eq_next h with ⟨w, i, u, fetched, decodes, ran, rfl⟩ | ⟨w, e, u, _, _, answered, rfl⟩ | ⟨none_fetched, _⟩
  · obtain rfl : s.lcmd = w := by simpa [fetch, turn, idle, resp] using fetched
    exact ⟨u, .of_exec turn decodes quiet ran, rfl⟩
  · rcases answerReserved_eq_next answered with ⟨r', q', turn', _⟩ | ⟨_, dec, rfl⟩
    · rw [turn] at turn'
      cases turn'
    · exact ⟨_, .refused _ dec, rfl⟩
  · simp [fetch, turn, idle, resp] at none_fetched

end

/-! ## A listed step brings the response nearer -/

/-- The most steps of its own that a requester takes until its response (R112 to R124). -/
def Phase.stepsToAnswer : Phase → Nat
  | .dec => 6
  | .acq => 5
  | .rdl => 4
  | .w1 => 3
  | .w2 => 2
  | .rdu | .rel => 1
  | .idle | .resp => 0

/-- The most steps of its own that the lifecycle sequencer takes until its response (R141 to R156). -/
def LStep.stepsToAnswer : LStep → Nat
  | .dec => 18
  | .pres => 17
  | .idx1 => 16
  | .dat1 => 15
  | .idx2 => 14
  | .dat2 => 13
  | .idx3 => 12
  | .dat3 => 11
  | .prel => 10
  | .rres => 9
  | .map => 8
  | .reg0 => 7
  | .reg1 | .dwait => 6
  | .reg2 | .unreg2 => 5
  | .rbu1 | .unreg1 => 4
  | .rbu0 | .unreg0 => 3
  | .rbunmap | .unmap => 2
  | .rbrrel | .mfrel | .rrel => 1
  | .idle | .resp => 0

section
variable {s u : State} {r : Nat} {q : Requester}

theorem stepsToRelease_afterDirection (i : Instr) : (afterDirection i).stepsToRelease < 2 := by
  unfold afterDirection; split <;> decide

theorem stepsToRelease_afterRead (i : Instr) (v : Byte) : (afterRead i v).stepsToRelease < 3 := by
  unfold afterRead
  split
  · decide
  · exact (stepsToRelease_afterDirection i).trans (by decide)

theorem Phase.not_waiting_of_holdsLock {p : Phase} (h : p.holdsLock = true) : p ≠ .idle ∧ p ≠ .resp ∧ p ≠ .acq := by
  revert h; cases p <;> decide

theorem Phase.stepsToAnswer_of_holdsLock {p : Phase} (h : p.holdsLock = true) : p.stepsToAnswer = p.stepsToRelease + 1 := by
  revert h; cases p <;> decide

/-- A step of the lock's holder is its release, or keeps the lock and brings the release nearer (R116, R124). -/
theorem RequesterStep.of_holder (h : RequesterStep s r q u) (port : s.reqs[r]? = some q) (holds : q.phase.holdsLock = true) :
    ∃ q', u.reqs[r]? = some q' ∧ (q.phase = .rel → q'.phase = .resp ∧ u.lockHeld = false) ∧
      (q.phase ≠ .rel → q'.phase.holdsLock = true ∧ q'.phase.stepsToRelease < q.phase.stepsToRelease) := by
  have here : r < s.reqs.length := (List.getElem?_eq_some_iff.mp port).1
  cases h with
  | issued _ phase | taken phase | refused _ phase | admitted _ _ _ phase | answered _ _ _ phase | acquired _ phase =>
    rw [phase] at holds
    cases holds
  | read i _ _ _ phase =>
    refine ⟨_, List.getElem?_set_self here, fun rel => ?_, fun _ => ⟨holdsLock_afterRead _ _, ?_⟩⟩
    · rw [phase] at rel; cases rel
    · rw [phase]; exact stepsToRelease_afterRead _ _
  | directionWritten i _ _ _ phase =>
    refine ⟨_, List.getElem?_set_self here, fun rel => ?_, fun _ => ⟨holdsLock_afterDirection _, ?_⟩⟩
    · rw [phase] at rel; cases rel
    · rw [phase]; exact stepsToRelease_afterDirection _
  | levelWritten _ _ _ _ phase =>
    refine ⟨_, List.getElem?_set_self here, fun rel => ?_, fun _ => ⟨rfl, ?_⟩⟩
    · rw [phase] at rel; cases rel
    · rw [phase]; exact Nat.zero_lt_one
  | released _ phase =>
    exact ⟨_, List.getElem?_set_self here, fun _ => ⟨rfl, rfl⟩, fun other => absurd phase other⟩

/-- A step of a requester with a command in flight brings its response nearer. -/
theorem RequesterStep.progress (h : RequesterStep s r q u) (port : s.reqs[r]? = some q) (idle : q.phase ≠ .idle)
    (resp : q.phase ≠ .resp) :
    ∃ q', u.reqs[r]? = some q' ∧ q'.phase ≠ .idle ∧ q'.phase.stepsToAnswer < q.phase.stepsToAnswer := by
  by_cases holds : q.phase.holdsLock = true
  · obtain ⟨q', port', release, approach⟩ := h.of_holder port holds
    refine ⟨q', port', ?_⟩
    by_cases rel : q.phase = .rel
    · have answered : q'.phase = .resp := (release rel).1
      rw [answered, rel]
      decide
    · obtain ⟨holds', nearer⟩ := approach rel
      rw [Phase.stepsToAnswer_of_holdsLock holds, Phase.stepsToAnswer_of_holdsLock holds']
      exact ⟨(Phase.not_waiting_of_holdsLock holds').1, by omega⟩
  · have here : r < s.reqs.length := (List.getElem?_eq_some_iff.mp port).1
    cases h with
    | issued _ phase => exact absurd phase idle
    | taken phase => exact absurd phase resp
    | refused _ phase | answered _ _ _ phase | acquired _ phase =>
      exact ⟨_, List.getElem?_set_self here, nofun, by rw [phase]; simp [Phase.stepsToAnswer]⟩
    | admitted i _ _ phase =>
      refine ⟨_, List.getElem?_set_self here, ?_⟩
      rw [phase]
      cases takesLock i <;> simp [Phase.stepsToAnswer]
    | read _ _ _ _ phase | directionWritten _ _ _ _ phase | levelWritten _ _ _ _ phase | released _ phase =>
      rw [phase] at holds
      exact absurd rfl holds

theorem LStep.stepsToAnswer_pos {l : LStep} (idle : l ≠ .idle) (resp : l ≠ .resp) : 0 < l.stepsToAnswer := by
  revert idle resp; cases l <;> decide

/-- A step of the lifecycle sequencer with a command in flight brings its response nearer. -/
theorem LifecycleStep.progress (h : LifecycleStep s u) (idle : s.lstep ≠ .idle) (resp : s.lstep ≠ .resp) :
    u.lstep ≠ .idle ∧ u.lstep.stepsToAnswer < s.lstep.stepsToAnswer := by
  cases h with
  | issued _ phase => exact absurd phase idle
  | taken phase => exact absurd phase resp
  | refused | resourceRefused | attachDone | regionReleased => exact ⟨nofun, LStep.stepsToAnswer_pos idle resp⟩
  | attachStarted phase | detachStarted phase | portsReserved phase | portsReleased phase | regionReserved phase
  | windowMapped phase | mapRefused phase | drained phase =>
    rw [phase]; simp [LStep.stepsToAnswer]
  | indexWritten phase | dataRead phase | bankRegistered phase | bankRefused phase | bankUnregistered phase
  | windowUnmapped phase =>
    grind [LStep.stepsToAnswer]

end

/-! ## Another agent's step leaves a sequencer where it is -/

section
variable {s u : State} {r : Nat} {q : Requester}

/-- A port's latches are changed in its own turn alone (R20, R178). -/
theorem AgentStep.other_port (h : AgentStep s u) (other : s.turn ≠ .requester r) : u.reqs[r]? = s.reqs[r]? := by
  cases h with
  | held => rfl
  | other => rfl
  | lifecycle _ move => rw [move.frame.1]
  | requester turn _ move =>
    obtain ⟨-, _, ports⟩ := move.frame
    rw [ports, List.getElem?_set_ne]
    rintro rfl
    exact other turn

/-- A requester that waits for the lock moves only when it takes a free one (R116). -/
theorem RequesterStep.free_of_acq (h : RequesterStep s r q u) (acq : q.phase = .acq) : s.lockHeld = false := by
  cases h with
  | acquired _ _ _ _ free => exact free
  | issued _ phase | taken phase | refused _ phase | admitted _ _ _ phase | answered _ _ _ phase | read _ _ _ _ phase
  | directionWritten _ _ _ _ phase | levelWritten _ _ _ _ phase | released _ phase =>
    rw [acq] at phase
    cases phase

/-- A drain moves only when no requester is busy (R152). -/
theorem LifecycleStep.quiet_of_dwait (h : LifecycleStep s u) (waiting : s.lstep = .dwait) {r : Nat} {q : Requester}
    (port : s.reqs[r]? = some q) : q.phase.busy = false := by
  cases h with
  | drained _ quiet => exact quiet r q port
  | _ => grind

/-- A command in flight on a requester port stays in its phase until its port takes an enabled step: a requester that waits for
the lock changes nothing (R116). -/
theorem AgentStep.port_kept (h : AgentStep s u) (port : s.reqs[r]? = some q) (idle : q.phase ≠ .idle) (resp : q.phase ≠ .resp)
    (not_taken : ¬(s.turn = .requester r ∧ s.enabled (.requester r) = true)) : u.reqs[r]? = some q := by
  by_cases turn : s.turn = .requester r
  · cases h with
    | held => exact port
    | other turn' => rw [turn] at turn'; cases turn'
    | lifecycle turn' => rw [turn] at turn'; cases turn'
    | requester turn' port' move =>
      rw [turn] at turn'
      cases turn'
      rw [port] at port'
      cases port'
      exact absurd ⟨turn, (enabled_requester port).mpr ⟨idle, resp, move.free_of_acq⟩⟩ not_taken
  · rw [h.other_port turn, port]

/-- The lifecycle sequencer stays in its phase until it takes an enabled step: a drain that waits changes nothing (R152). -/
theorem AgentStep.lstep_kept (h : AgentStep s u) (idle : s.lstep ≠ .idle) (resp : s.lstep ≠ .resp)
    (not_taken : ¬(s.turn = .lifecycle ∧ s.enabled .lifecycle = true)) : u.lstep = s.lstep := by
  cases h with
  | held => rfl
  | other => rfl
  | requester _ _ move => rw [move.frame.1]
  | lifecycle turn move =>
    exact absurd ⟨turn, (enabled_lifecycle s).mpr ⟨idle, resp, fun waiting _ _ => move.quiet_of_dwait waiting⟩⟩ not_taken

end

/-- Settles O52: another agent's step leaves the holder's port alone, and the invariant after it says that the lock is still the
holder's; a step of its own is one of the listed ones. -/
theorem holderReachesReleaseInThreeSteps : Obligations.HolderReachesReleaseInThreeSteps := by
  intro s r q inv port holds
  refine ⟨by cases q.phase <;> decide, ?_⟩
  obtain ⟨t, ht⟩ := theMachineNeverStops s inv
  by_cases turn : s.turn = .requester r
  · have enabled : s.enabled (.requester r) = true := by
      obtain ⟨idle, resp, acq⟩ := Phase.not_waiting_of_holdsLock holds
      exact (enabled_requester port).mpr ⟨idle, resp, fun waits => absurd waits acq⟩
    obtain ⟨u, move, rfl⟩ := inv.requesterStep_of_enabled turn port enabled ht
    obtain ⟨q', port', release, approach⟩ := move.of_holder port holds
    refine ⟨_, q', ht, by rwa [State.draw_reqs], fun other => absurd turn other, fun _ rel => ?_, fun _ => approach⟩
    rw [State.draw_lockHeld]
    exact release rel
  · obtain ⟨u, hu, rfl⟩ := step_cases ht
    have port' : u.draw.reqs[r]? = some q := by rw [State.draw_reqs, hu.other_port turn, port]
    have owned := (everyStepKeepsTheInvariant s _ inv ht).owned r q port' holds
    exact ⟨_, q, ht, port', fun _ => ⟨rfl, owned⟩, fun mine => absurd mine turn, fun mine => absurd mine turn⟩

/-! ## Fair runs -/

section
variable {run : Nat → State} {agent : Turn} {k j r : Nat} {q : Requester}

/-- Every state of a run meets the invariant if its first does. -/
theorem IsRun.inv (isRun : IsRun run) (start : Inv (run 0)) (k : Nat) : Inv (run k) := by
  induction k with
  | zero => exact start
  | succ k ih =>
    obtain ⟨t, ht, e⟩ := isRun k
    rw [e]
    exact (everyStepKeepsTheInvariant _ t ih ht).with_choice _ _ _ _

/-- What stays until an agent takes an enabled step still stands when the agent first takes one. -/
theorem exists_taken_of_kept {P : State → Prop} (now : P (run k))
    (kept : ∀ m, P (run m) → ¬TakesStep run m agent → P (run (m + 1))) (taken : ∃ j, k ≤ j ∧ TakesStep run j agent) :
    ∃ j, k ≤ j ∧ P (run j) ∧ TakesStep run j agent := by
  obtain ⟨j, le, step⟩ := taken
  obtain ⟨d, rfl⟩ := Nat.exists_eq_add_of_le le
  clear le
  induction d generalizing k with
  | zero => exact ⟨k, le_rfl, now, step⟩
  | succ d ih =>
    by_cases first : TakesStep run k agent
    · exact ⟨k, le_rfl, now, first⟩
    · obtain ⟨j, le, rest⟩ := ih (kept k now first) (by rwa [show k + 1 + d = k + (d + 1) by omega])
      exact ⟨j, by omega, rest⟩

/-- A requester with a command in flight takes an enabled step at last, and its port is unchanged until then (R116, R204). -/
theorem FairRun.exists_requester_step (isRun : IsRun run) (fair : FairRun run) (port : (run k).reqs[r]? = some q)
    (idle : q.phase ≠ .idle) (resp : q.phase ≠ .resp) :
    ∃ j, k ≤ j ∧ (run j).reqs[r]? = some q ∧ TakesStep run j (.requester r) := by
  refine exists_taken_of_kept (P := fun s => s.reqs[r]? = some q) port (fun m port not_taken => ?_) ?_
  · obtain ⟨t, ht, ports, _⟩ := isRun_next isRun m
    obtain ⟨u, hu, rfl⟩ := step_cases ht
    rw [ports, State.draw_reqs]
    exact hu.port_kept port idle resp not_taken
  · by_cases acq : q.phase = .acq
    · exact fair.2 k r q port acq
    · exact fair.1 k _ ((enabled_requester port).mpr ⟨idle, resp, fun h => absurd h acq⟩)

/-- Every command in flight on a requester port is answered: each enabled step brings the response nearer. -/
theorem FairRun.requester_answered (isRun : IsRun run) (fair : FairRun run) (start : Inv (run 0))
    (port : (run k).reqs[r]? = some q) (idle : q.phase ≠ .idle) :
    ∃ (j : Nat) (q' : Requester), k ≤ j ∧ (run j).reqs[r]? = some q' ∧ q'.phase = .resp := by
  induction left : q.phase.stepsToAnswer using Nat.strong_induction_on generalizing k q with
  | _ left_steps ih =>
    by_cases resp : q.phase = .resp
    · exact ⟨k, q, le_rfl, port, resp⟩
    · obtain ⟨j, le, port_there, turn, enabled⟩ := fair.exists_requester_step isRun port idle resp
      obtain ⟨t, ht, ports, _⟩ := isRun_next isRun j
      obtain ⟨u, move, rfl⟩ := (isRun.inv start j).requesterStep_of_enabled turn port_there enabled ht
      obtain ⟨q', port', idle', nearer⟩ := move.progress port_there idle resp
      obtain ⟨j', q'', le', answered⟩ := ih _ (left ▸ nearer) (k := j + 1) (by rwa [ports, State.draw_reqs]) idle' rfl
      exact ⟨j', q'', by omega, answered⟩

/-- The number of ports is the same all along a run (R31). -/
theorem IsRun.length_reqs (isRun : IsRun run) (k : Nat) : (run k).reqs.length = (run 0).reqs.length := by
  induction k with
  | zero => rfl
  | succ k ih =>
    obtain ⟨t, ht, ports, _⟩ := isRun_next isRun k
    rw [ports, (configurationIsConstant _ t ht).2.2, ih]

/-- Port `r` has no busy requester. -/
def State.notBusy (s : State) (r : Nat) : Prop := ∀ q : Requester, s.reqs[r]? = some q → q.phase.busy = false

/-- While a detach waits, a requester that is not busy stays so (R152). -/
theorem IsRun.notBusy_kept (isRun : IsRun run) (start : Inv (run 0)) (waiting : ∀ m, k ≤ m → (run m).lstep = .dwait)
    (now : (run k).notBusy r) (le : k ≤ j) : (run j).notBusy r := by
  induction j, le using Nat.le_induction with
  | base => exact now
  | succ m le ih =>
    intro q' after
    obtain ⟨t, ht, ports, _⟩ := isRun_next isRun m
    have inv := isRun.inv start m
    have detaching : (run m).lc = .detaching := by simpa [waiting m le, LStep.allows] using inv.lifecycle
    have here : r < (run m).reqs.length := by
      rw [isRun.length_reqs, ← isRun.length_reqs (m + 1)]
      exact (List.getElem?_eq_some_iff.mp after).1
    have before : (run m).reqs[r]? = some (run m).reqs[r] := List.getElem?_eq_getElem here
    rw [ports] at after
    by_contra busy
    rw [Bool.not_eq_false] at busy
    have was_busy := (detachLetsBusyRequestersFinish _ t r _ q' inv ht before after).2 detaching busy
    rw [ih _ before] at was_busy
    cases was_busy

/-- While a detach waits, every requester ends up not busy: a busy one is answered (R152, R204). -/
theorem FairRun.eventually_notBusy (isRun : IsRun run) (fair : FairRun run) (start : Inv (run 0))
    (waiting : ∀ m, k ≤ m → (run m).lstep = .dwait) (r : Nat) : ∀ᶠ m in Filter.atTop, (run m).notBusy r := by
  have once : ∃ j, k ≤ j ∧ (run j).notBusy r := by
    by_cases now : (run k).notBusy r
    · exact ⟨k, le_rfl, now⟩
    · simp only [State.notBusy, not_forall, Bool.not_eq_false] at now
      obtain ⟨q, port, busy⟩ := now
      have idle : q.phase ≠ .idle := by intro e; rw [e] at busy; cases busy
      obtain ⟨j, q', le, port', answered⟩ := fair.requester_answered isRun start port idle
      refine ⟨j, le, fun p hp => ?_⟩
      rw [port'] at hp
      cases hp
      rw [answered]
      rfl
  obtain ⟨j, le, settled⟩ := once
  exact Filter.eventually_atTop.mpr
    ⟨j, fun m later => isRun.notBusy_kept start (fun m' le' => waiting m' (le.trans le')) settled later⟩

/-- A lifecycle command in flight stays in its phase until the sequencer takes an enabled step. -/
theorem IsRun.lstep_kept {l : LStep} (isRun : IsRun run) (idle : l ≠ .idle) (resp : l ≠ .resp) (now : (run k).lstep = l)
    (not_taken : ¬TakesStep run k .lifecycle) : (run (k + 1)).lstep = l := by
  obtain ⟨t, ht, _, lstep, _⟩ := isRun_next isRun k
  obtain ⟨u, hu, rfl⟩ := step_cases ht
  rw [lstep, State.draw_lstep, hu.lstep_kept (by rwa [now]) (by rwa [now]) not_taken, now]

/-- A detach that waits takes its step at last: if it waited for ever, no requester would be busy in the end (R152, R204). -/
theorem FairRun.exists_drain_step (isRun : IsRun run) (fair : FairRun run) (start : Inv (run 0))
    (now : (run k).lstep = .dwait) : ∃ j, k ≤ j ∧ TakesStep run j .lifecycle := by
  by_contra never
  simp only [not_exists, not_and] at never
  have waiting : ∀ m, k ≤ m → (run m).lstep = .dwait := fun m le => by
    induction m, le using Nat.le_induction with
    | base => exact now
    | succ m le ih => exact isRun.lstep_kept (by decide) (by decide) ih (never m le)
  have settled : ∀ᶠ m in Filter.atTop, ∀ r ∈ {r | r < (run 0).reqs.length}, (run m).notBusy r :=
    (Filter.eventually_all_finite (Set.finite_lt_nat _)).mpr fun r _ => fair.eventually_notBusy isRun start waiting r
  obtain ⟨m, quiet, le⟩ := (settled.and (Filter.eventually_ge_atTop k)).exists
  have enabled : (run m).enabled .lifecycle = true := by
    rw [enabled_lifecycle, waiting m le]
    refine ⟨by decide, by decide, fun _ r q port => ?_⟩
    have here : r < (run 0).reqs.length := isRun.length_reqs m ▸ (List.getElem?_eq_some_iff.mp port).1
    exact quiet r here q port
  obtain ⟨j, le', taken⟩ := fair.1 m _ enabled
  exact never j (le.trans le') taken

/-- The lifecycle sequencer with a command in flight takes an enabled step at last, and is in its phase until then. -/
theorem FairRun.exists_lifecycle_step {l : LStep} (isRun : IsRun run) (fair : FairRun run) (start : Inv (run 0))
    (now : (run k).lstep = l) (idle : l ≠ .idle) (resp : l ≠ .resp) :
    ∃ j, k ≤ j ∧ (run j).lstep = l ∧ TakesStep run j .lifecycle := by
  refine exists_taken_of_kept (P := fun s => s.lstep = l) now (fun m => isRun.lstep_kept idle resp) ?_
  by_cases waiting : l = .dwait
  · exact fair.exists_drain_step isRun start (now.trans waiting)
  · exact fair.1 k _ ((enabled_lifecycle _).mpr ⟨by rwa [now], by rwa [now], fun e => absurd (now.symm.trans e) waiting⟩)

/-- Every command in flight on the lifecycle port is answered: each enabled step brings the response nearer. -/
theorem FairRun.lifecycle_answered (isRun : IsRun run) (fair : FairRun run) (start : Inv (run 0))
    (idle : (run k).lstep ≠ .idle) : ∃ j, k ≤ j ∧ (run j).lstep = .resp := by
  induction left : (run k).lstep.stepsToAnswer using Nat.strong_induction_on generalizing k with
  | _ left_steps ih =>
    by_cases resp : (run k).lstep = .resp
    · exact ⟨k, le_rfl, resp⟩
    · obtain ⟨j, le, same, turn, enabled⟩ := fair.exists_lifecycle_step isRun start rfl idle resp
      obtain ⟨t, ht, _, lstep, _⟩ := isRun_next isRun j
      obtain ⟨u, move, rfl⟩ := lifecycleStep_of_enabled turn enabled ht
      obtain ⟨idle', nearer⟩ := move.progress (by rwa [same]) (by rwa [same])
      rw [State.draw_lstep] at lstep
      rw [← lstep] at idle' nearer
      rw [same, left] at nearer
      obtain ⟨j', le', answered⟩ := ih _ nearer (k := j + 1) idle' rfl
      exact ⟨j', by omega, answered⟩

end

/-- Settles O54. -/
theorem fairRunAnswersEveryCommand : Obligations.FairRunAnswersEveryCommand := by
  intro run isRun fair start
  exact ⟨fun _ _ _ port idle => fair.requester_answered isRun start port idle,
    fun _ idle => fair.lifecycle_answered isRun start idle⟩

end Sys2Proof.Machine

/-!
PROOFS, part 14. The steps of the lifecycle port, phase by phase (R141 to R156): one equation for each phase of its sequencer, in
the order of the phases; from them the statements on single steps.
-/
namespace Sys2Proof.Machine

/-- The unregistration steps of both commands: the phase, its bank, and the phase after it (R149, R154). -/
def unregisterPhases : List (Instr × LStep × Nat × LStep) :=
  [(.attach, .rbu1, 1, .rbu0), (.attach, .rbu0, 0, .rbunmap),
    (.detach, .unreg2, 2, .unreg1), (.detach, .unreg1, 1, .unreg0), (.detach, .unreg0, 0, .unmap)]

/-- The unmapping steps: the phase, and the phase after it (R149, R155). -/
def unmapPhases : List (Instr × LStep × LStep) := [(.attach, .rbunmap, .rbrrel), (.detach, .unmap, .rrel)]

/-- The steps that release the region and end the command: the phase, and the code answered, which after a failure is the one in
`ERRK` (R146, R150, R156). -/
def releasePhases (errk : BitVec 4) : List (Instr × LStep × BitVec 4) :=
  [(.attach, .mfrel, errk), (.attach, .rbrrel, errk), (.detach, .rrel, Status.ok.code)]

section
variable {s : State} {i : Instr} {l go back : LStep} {b : Nat} {kind : FailKind} {code : BitVec 4}

/-! ## Discovery and the window -/

/-- `WrongState` on the lifecycle port (R160, R165). -/
theorem raise_wrongState_lifecycle (s : State) :
    raise .lifecycle .wrongState s =
      { s with lrsp := 0x05#8, lstep := .resp, history := .response .lifecycle 0x05#8 :: s.history } := by
  rw [raise, responseWord_wrongState, respond_lifecycle]

/-- `ResourceConflict` on the lifecycle port (R160). -/
theorem raise_resourceConflict_lifecycle (s : State) :
    raise .lifecycle .resourceConflict s =
      { s with lrsp := 0x01#8, lstep := .resp, history := .response .lifecycle 0x01#8 :: s.history } := by
  rw [raise, responseWord_resourceConflict, respond_lifecycle]

/-- The gate of `ATTACH` (R141, R165). -/
theorem exec_attach_of_dec (at_dec : LifecycleAt s .dec) :
    exec .attach s = .next (if s.lc = .unattached then { s with lc := .discovering, lstep := .pres } else
      { s with lrsp := 0x05#8, lstep := .resp, history := .response .lifecycle 0x05#8 :: s.history }) := by
  obtain ⟨turn, phase⟩ := at_dec
  rw [exec, execAttach, onLifecycle_of_turn turn, phase, raise_wrongState_lifecycle]

/-- The gate of `DETACH` (R151, R165). -/
theorem exec_detach_of_dec (at_dec : LifecycleAt s .dec) :
    exec .detach s = .next (if s.lc = .attached then { s with lc := .detaching, lstep := .dwait } else
      { s with lrsp := 0x05#8, lstep := .resp, history := .response .lifecycle 0x05#8 :: s.history }) := by
  obtain ⟨turn, phase⟩ := at_dec
  rw [exec, execDetach, onLifecycle_of_turn turn, phase, raise_wrongState_lifecycle]

theorem exec_attach_ports_granted (at_pres : LifecycleAt s .pres) (granted : s.inputs.answer = .ok) :
    exec .attach s = .next { s with portsRsvd := true, acc := 0#24, lstep := .idx1,
                                    history := .env .reservePorts (some .ok) :: s.history } := by
  obtain ⟨turn, phase⟩ := at_pres
  rw [exec, execAttach, onLifecycle_of_turn turn, phase]
  simp only [reservePorts, granted, asked_of_answer _ granted]
  rfl

theorem exec_attach_ports_refused (at_pres : LifecycleAt s .pres) (refused : s.inputs.answer = .fail kind) :
    exec .attach s = .next { s with
      lc := .unattached, lrsp := 0x01#8, lstep := .resp,
      history := .response .lifecycle 0x01#8 :: .env .reservePorts (some (.fail kind)) :: s.history } := by
  obtain ⟨turn, phase⟩ := at_pres
  rw [exec, execAttach, onLifecycle_of_turn turn, phase]
  simp only [reservePorts, refused, asked_of_answer _ refused, raise_resourceConflict_lifecycle]

theorem exec_attach_of_prel (at_prel : LifecycleAt s .prel) :
    exec .attach s = .next { s with portsRsvd := false, dba := baseOf s.params.baseForm s.acc, lc := .windowAcquired,
                                    lstep := .rres, history := .env .releasePorts none :: s.history } := by
  obtain ⟨turn, phase⟩ := at_prel
  rw [exec, execAttach, onLifecycle_of_turn turn, phase]
  rfl

theorem exec_attach_region_granted (at_rres : LifecycleAt s .rres) (granted : s.inputs.answer = .ok) :
    exec .attach s = .next { s with
      regionRsvd := true, lstep := .map,
      history := .env (.reserveRegion (s.dba + 0x100#32) 0x100) (some .ok) :: s.history } := by
  obtain ⟨turn, phase⟩ := at_rres
  rw [exec, execAttach, onLifecycle_of_turn turn, phase]
  simp only [reserveRegion, granted, asked_of_answer _ granted]
  rfl

theorem exec_attach_region_refused (at_rres : LifecycleAt s .rres) (refused : s.inputs.answer = .fail kind) :
    exec .attach s = .next { s with
      lc := .unattached, lrsp := 0x01#8, lstep := .resp,
      history := .response .lifecycle 0x01#8 ::
        .env (.reserveRegion (s.dba + 0x100#32) 0x100) (some (.fail kind)) :: s.history } := by
  obtain ⟨turn, phase⟩ := at_rres
  rw [exec, execAttach, onLifecycle_of_turn turn, phase]
  simp only [reserveRegion, refused, asked_of_answer _ refused, raise_resourceConflict_lifecycle]
  rfl

theorem exec_attach_map_granted (at_map : LifecycleAt s .map) (granted : s.inputs.answer = .ok) :
    exec .attach s = .next { s with
      mapped := true, lc := .banksRegistering, lstep := .reg0,
      history := .env (.map (s.dba + 0x100#32) 0x100) (some .ok) :: s.history } := by
  obtain ⟨turn, phase⟩ := at_map
  rw [exec, execAttach, onLifecycle_of_turn turn, phase]
  simp only [mapWindow, granted, asked_of_answer _ granted]
  rfl

theorem exec_attach_map_refused (at_map : LifecycleAt s .map) (refused : s.inputs.answer = .fail kind) :
    exec .attach s = .next { s with
      errk := 2#4, lstep := .mfrel,
      history := .env (.map (s.dba + 0x100#32) 0x100) (some (.fail kind)) :: s.history } := by
  obtain ⟨turn, phase⟩ := at_map
  rw [exec, execAttach, onLifecycle_of_turn turn, phase]
  simp only [mapWindow, refused, asked_of_answer _ refused]
  rfl

/-! ## The banks -/

/-- A bank before the last is enabled, and the next one follows (R147). -/
theorem exec_attach_bank_granted (phase : (l, b, go) ∈ [(LStep.reg0, 0, LStep.reg1), (.reg1, 1, .reg2)])
    (at_step : LifecycleAt s l) (granted : s.inputs.answer = .ok) :
    exec .attach s = .next { s with bankEn := s.bankEn.put b true, lstep := go,
                                    history := .env (.register b (bankBase b) (bankCount b)) (some .ok) :: s.history } := by
  obtain ⟨turn, rfl⟩ := at_step
  rw [exec, execAttach, onLifecycle_of_turn turn]
  simp only [List.mem_cons, Prod.mk.injEq, List.not_mem_nil, or_false] at phase
  rcases phase with ⟨phase, rfl, rfl⟩ | ⟨phase, rfl, rfl⟩ <;>
    simp only [phase, registerBank, granted, asked_of_answer _ granted]

/-- The last bank is enabled, and the command ends (R147). -/
theorem exec_attach_last_bank_granted (at_reg2 : LifecycleAt s .reg2) (granted : s.inputs.answer = .ok) :
    exec .attach s = .next { s with
      bankEn := s.bankEn.put 2 true, lc := .attached, lrsp := 0x00#8, lstep := .resp,
      history := .response .lifecycle 0x00#8 :: .env (.register 2 160 69) (some .ok) :: s.history } := by
  obtain ⟨turn, phase⟩ := at_reg2
  rw [exec, execAttach, onLifecycle_of_turn turn, phase]
  simp only [registerBank, granted, asked_of_answer _ granted]
  rfl

/-- A refused bank leaves its kind, and the banks below it are to be taken back (R147). -/
theorem exec_attach_bank_refused
    (phase : (l, b, back) ∈ [(LStep.reg0, 0, LStep.rbunmap), (.reg1, 1, .rbu0), (.reg2, 2, .rbu1)])
    (at_step : LifecycleAt s l) (refused : s.inputs.answer = .fail kind) :
    exec .attach s = .next { s with
      errk := (failStatus kind).code, lstep := back,
      history := .env (.register b (bankBase b) (bankCount b)) (some (.fail kind)) :: s.history } := by
  obtain ⟨turn, rfl⟩ := at_step
  rw [exec, execAttach, onLifecycle_of_turn turn]
  simp only [List.mem_cons, Prod.mk.injEq, List.not_mem_nil, or_false] at phase
  rcases phase with ⟨phase, rfl, rfl⟩ | ⟨phase, rfl, rfl⟩ | ⟨phase, rfl, rfl⟩ <;>
    simp only [phase, registerBank, refused, asked_of_answer _ refused]

/-! ## The drain, and the steps that rollback and teardown share -/

/-- A port is not busy before the gate and after the answer (R20). -/
theorem Phase.busy_eq_false_iff {p : Phase} : p.busy = false ↔ p = .idle ∨ p = .dec ∨ p = .resp := by
  cases p <;> decide

theorem exec_detach_of_dwait (at_dwait : LifecycleAt s .dwait) : exec .detach s = .next (drain s) := by
  obtain ⟨turn, phase⟩ := at_dwait
  rw [exec, execDetach, onLifecycle_of_turn turn, phase]

/-- The drain goes on when no requester is busy (R152). -/
theorem exec_detach_drained (at_dwait : LifecycleAt s .dwait)
    (quiet : ∀ (r : Nat) (q : Requester), s.reqs[r]? = some q → q.phase.busy = false) :
    exec .detach s = .next { s with lstep := .unreg2 } := by
  rw [exec_detach_of_dwait at_dwait]
  rcases drain_cases s with ⟨⟨r, q, port, busy⟩, -⟩ | ⟨-, e⟩
  · rw [quiet r q port] at busy
    cases busy
  · rw [e]

/-- The drain holds while a requester is busy (R152). -/
theorem exec_detach_held {r : Nat} {q : Requester} (at_dwait : LifecycleAt s .dwait) (port : s.reqs[r]? = some q)
    (busy : q.phase.busy = true) : exec .detach s = .next s := by
  rw [exec_detach_of_dwait at_dwait]
  rcases drain_cases s with ⟨-, e⟩ | ⟨quiet, -⟩
  · rw [e]
  · rw [quiet r q port] at busy
    cases busy

/-- A bank is unregistered, whatever the answer (R149, R154). -/
theorem exec_unregister (phase : (i, l, b, go) ∈ unregisterPhases) (at_step : LifecycleAt s l) :
    exec i s = .next { s with bankEn := s.bankEn.put b false, lstep := go,
                              history := .env (.unregister b) (some s.inputs.answer) :: s.history } := by
  obtain ⟨turn, rfl⟩ := at_step
  simp only [unregisterPhases, List.mem_cons, Prod.mk.injEq, List.not_mem_nil, or_false] at phase
  rcases phase with ⟨rfl, phase, rfl, rfl⟩ | ⟨rfl, phase, rfl, rfl⟩ | ⟨rfl, phase, rfl, rfl⟩ | ⟨rfl, phase, rfl, rfl⟩ |
    ⟨rfl, phase, rfl, rfl⟩ <;> simp only [exec, execAttach, execDetach, onLifecycle_of_turn turn, phase] <;> rfl

/-- The window is unmapped (R96, R149, R155). -/
theorem exec_unmap (phase : (i, l, go) ∈ unmapPhases) (at_step : LifecycleAt s l) :
    exec i s = .next { s with mapped := false, lstep := go, history := .env .unmap none :: s.history } := by
  obtain ⟨turn, rfl⟩ := at_step
  simp only [unmapPhases, List.mem_cons, Prod.mk.injEq, List.not_mem_nil, or_false] at phase
  rcases phase with ⟨rfl, phase, rfl⟩ | ⟨rfl, phase, rfl⟩ <;>
    simp only [exec, execAttach, execDetach, onLifecycle_of_turn turn, phase] <;> rfl

/-- The region is released and the command ends with its code (R97, R146, R150, R156). -/
theorem exec_release_region (phase : (i, l, code) ∈ releasePhases s.errk) (at_step : LifecycleAt s l) :
    exec i s = .next { s with
      regionRsvd := false, lc := .unattached, lrsp := 0b0000#4 ++ code, lstep := .resp,
      history := .response .lifecycle (0b0000#4 ++ code) :: .env .releaseRegion none :: s.history } := by
  obtain ⟨turn, rfl⟩ := at_step
  simp only [releasePhases, List.mem_cons, Prod.mk.injEq, List.not_mem_nil, or_false] at phase
  rw [← responseWord_false]
  rcases phase with ⟨rfl, phase, rfl⟩ | ⟨rfl, phase, rfl⟩ | ⟨rfl, phase, rfl⟩ <;>
    simp only [exec, execAttach, execDetach, onLifecycle_of_turn turn, phase] <;> rfl

end

/-! ## The statements on single steps -/

/-- Settles O31. -/
theorem lifecycleDecodeSteps : Obligations.LifecycleDecodeSteps :=
  fun _ at_dec => ⟨exec_attach_of_dec at_dec, exec_detach_of_dec at_dec⟩

/-- Settles O32. -/
theorem portReservationStep : Obligations.PortReservationStep :=
  fun _ at_pres => ⟨exec_attach_ports_granted at_pres, fun _ => exec_attach_ports_refused at_pres⟩

/-- Settles O36. -/
theorem windowAcquisitionSteps : Obligations.WindowAcquisitionSteps := fun _ =>
  ⟨exec_attach_of_prel, exec_attach_region_granted, fun _ => exec_attach_region_refused, exec_attach_map_granted,
    fun _ => exec_attach_map_refused, exec_release_region (by simp [releasePhases])⟩

/-- Settles O37: the three banks' table values are those of R110 and R111. -/
theorem bankRegistrationSteps : Obligations.BankRegistrationSteps := by
  intro s
  refine ⟨exec_attach_bank_granted (b := 0) (by decide), exec_attach_bank_granted (b := 1) (by decide),
    exec_attach_last_bank_granted, ?_⟩
  intro k refused code
  have own_kind : (failStatus k).code = code := by cases k <;> rfl
  rw [← own_kind]
  exact ⟨fun at_reg0 => exec_attach_bank_refused (b := 0) (by decide) at_reg0 refused,
    fun at_reg1 => exec_attach_bank_refused (b := 1) (by decide) at_reg1 refused,
    fun at_reg2 => exec_attach_bank_refused (b := 2) (by decide) at_reg2 refused⟩

/-- Settles O38. -/
theorem rollbackSteps : Obligations.RollbackSteps := fun _ =>
  ⟨exec_unregister (b := 1) (by decide), exec_unregister (b := 0) (by decide), exec_unmap (by decide),
    exec_release_region (by simp [releasePhases])⟩

/-- Settles O41: the drain asks which requesters are busy (R20). -/
theorem drainWaitsForBusyRequesters : Obligations.DrainWaitsForBusyRequesters := by
  intro s at_dwait
  constructor
  · rintro ⟨r, q, port, idle, dec, resp⟩
    have busy : q.phase.busy = true := by
      rw [← Bool.not_eq_false, Phase.busy_eq_false_iff]
      tauto
    exact exec_detach_held at_dwait port busy
  · intro quiet
    exact exec_detach_drained at_dwait fun r q port => Phase.busy_eq_false_iff.mpr (quiet r q port)

/-- Settles O42. -/
theorem detachTeardownSteps : Obligations.DetachTeardownSteps := fun _ =>
  ⟨exec_unregister (b := 2) (by decide), exec_unregister (b := 1) (by decide), exec_unregister (b := 0) (by decide),
    exec_unmap (by decide), exec_release_region (code := Status.ok.code) (by simp [releasePhases])⟩

end Sys2Proof.Machine

/-!
PROOFS, part 15. Whole lifecycle commands, alone: `ATTACH` (R141 to R147), its rollback (R159), `DETACH` (R151 to R156), each put
together from runs of a few steps; and what a step on the lifecycle port leaves alone (R153, R190).
-/
namespace Sys2Proof.Machine

section
variable {s t : State} {i : Instr} {o : Result}

/-- A run is its first step and the run of the rest. -/
theorem execWith_cons_eq {x : Inputs} {xs : List Inputs} (first : exec i { s with inputs := x } = .next t)
    (rest : execWith i xs t = o) : execWith i (x :: xs) s = o := (execWith_cons_of_next first).trans rest

/-- Runs of one command compose. -/
theorem execWith_append_eq {xs ys : List Inputs} (first : execWith i xs s = .next t) (rest : execWith i ys t = o) :
    execWith i (xs ++ ys) s = o := by
  induction xs generalizing s with
  | nil => cases first; exact rest
  | cons x xs ih =>
    rw [execWith] at first
    cases ran : exec i { s with inputs := x } with
    | next u => rw [ran] at first; exact execWith_cons_eq ran (ih first)
    | fault f => rw [ran] at first; cases first
    | refused e => rw [ran] at first; cases first

/-! ## Discovery (R141 to R144) -/

/-- The six port events of the base read, latest first (R80 to R86). -/
def State.laneEvents (s : State) : List Event :=
  let a := laneAddress s.params.laneOrder regOffset
  let d := laneByte s.params.laneOrder s.configSpace regOffset
  [.ioRead (dataPort s.params) (d 3), .ioWrite s.params.indexPort (a 3),
    .ioRead (dataPort s.params) (d 2), .ioWrite s.params.indexPort (a 2),
    .ioRead (dataPort s.params) (d 1), .ioWrite s.params.indexPort (a 1)]

theorem access_of_mem_laneEvents {e : Event} (h : e ∈ s.laneEvents) :
    (∃ p v, e = .ioWrite p v) ∨ (∃ p v, e = .ioRead p v) := by
  simp only [State.laneEvents, List.mem_cons, List.not_mem_nil, or_false] at h
  rcases h with rfl | rfl | rfl | rfl | rfl | rfl <;> simp

/-- The base that discovery finds (R80, R90). -/
def State.foundBase (s : State) : Addr := baseOf s.params.baseForm (readBase s.params.laneOrder s.configSpace regOffset)

/-- The state when the ports have been reserved for an `ATTACH` (R142). -/
def State.withPorts (s : State) (x : Inputs) : State :=
  { s with lc := .discovering, lstep := .idx1, portsRsvd := true, acc := 0#24, inputs := x,
           history := .env .reservePorts (some .ok) :: s.history }

/-- The state when discovery is over and the ports are free again (R144). -/
def State.discovered (s : State) (x : Inputs) : State :=
  { s with lc := .windowAcquired, lstep := .rres, portsRsvd := false,
           acc := readBase s.params.laneOrder s.configSpace regOffset, dba := s.foundBase,
           idxReg := laneAddress s.params.laneOrder regOffset 3, inputs := x,
           history := .env .releasePorts none :: (s.laneEvents ++ .env .reservePorts (some .ok) :: s.history) }

theorem execWith_to_ports (x y : Inputs) (at_dec : LifecycleAt s .dec) (unattached : s.lc = .unattached)
    (granted : y.answer = .ok) : execWith .attach [x, y] s = .next (s.withPorts y) := by
  have admitted : exec .attach { s with inputs := x } = .next { s with inputs := x, lc := .discovering, lstep := .pres } := by
    rw [exec_attach_of_dec (s := { s with inputs := x }) at_dec, if_pos unattached]
  refine execWith_cons_eq admitted ?_
  exact execWith_cons_eq (exec_attach_ports_granted ⟨at_dec.1, rfl⟩ granted) rfl

/-- The ports are reserved, the three lanes are read, the ports are released, and the base is written (R99, R141 to R144). -/
theorem execWith_discovery (x1 x2 x3 x4 x5 x6 x7 x8 x9 : Inputs) (at_dec : LifecycleAt s .dec)
    (unattached : s.lc = .unattached) (granted : x2.answer = .ok) :
    execWith .attach [x1, x2, x3, x4, x5, x6, x7, x8, x9] s = .next (s.discovered x9) := by
  have reserved := execWith_to_ports x1 x2 at_dec unattached granted
  have read := baseReadAssemblesThreeLanes (s.withPorts x2) x3 x4 x5 x6 x7 x8 ⟨at_dec.1, rfl⟩ rfl rfl
  refine execWith_append_eq reserved (execWith_append_eq read ?_)
  exact execWith_cons_eq (exec_attach_of_prel ⟨at_dec.1, rfl⟩) rfl

/-! ## The window and the first two banks (R145 to R147) -/

/-- The state when the window is held and mapped (R146). -/
def State.withWindow (s : State) (x : Inputs) : State :=
  { s with lc := .banksRegistering, lstep := .reg0, regionRsvd := true, mapped := true, inputs := x,
           history := .env (.map (s.dba + 0x100#32) 0x100) (some .ok) ::
             .env (.reserveRegion (s.dba + 0x100#32) 0x100) (some .ok) :: s.history }

/-- The state when banks 0 and 1 are registered (R147). -/
def State.withTwoBanks (s : State) (x : Inputs) : State :=
  { s with lstep := .reg2, bankEn := { s.bankEn with b0 := true, b1 := true }, inputs := x,
           history := .env (.register 1 128 23) (some .ok) :: .env (.register 0 0 68) (some .ok) :: s.history }

/-- The state before the registration of bank 2 of an `ATTACH` that starts in `s` (R141 to R147). -/
def State.beforeLastBank (s : State) (x : Inputs) : State := ((s.discovered x).withWindow x).withTwoBanks x

theorem execWith_to_window (x y : Inputs) (at_rres : LifecycleAt s .rres) (reserved : x.answer = .ok)
    (mapped : y.answer = .ok) : execWith .attach [x, y] s = .next (s.withWindow y) := by
  refine execWith_cons_eq (exec_attach_region_granted at_rres reserved) ?_
  exact execWith_cons_eq (exec_attach_map_granted ⟨at_rres.1, rfl⟩ mapped) rfl

theorem execWith_to_two_banks (x y : Inputs) (at_reg0 : LifecycleAt s .reg0) (first : x.answer = .ok)
    (second : y.answer = .ok) : execWith .attach [x, y] s = .next (s.withTwoBanks y) := by
  refine execWith_cons_eq (exec_attach_bank_granted (l := .reg0) (b := 0) (go := .reg1) (by decide) at_reg0 first) ?_
  exact execWith_cons_eq (exec_attach_bank_granted (l := .reg1) (b := 1) (go := .reg2) (by decide) ⟨at_reg0.1, rfl⟩ second) rfl

/-- Thirteen granted steps bring an `ATTACH` to the registration of bank 2 (R141 to R147). -/
theorem execWith_to_last_bank {xs : List Inputs} (at_dec : LifecycleAt s .dec) (unattached : s.lc = .unattached)
    (steps : xs.length = 13) (granted : ∀ x ∈ xs, x.answer = .ok) :
    ∃ x, execWith .attach xs s = .next (s.beforeLastBank x) := by
  match xs, steps with
  | [x1, x2, x3, x4, x5, x6, x7, x8, x9, x10, x11, x12, x13], _ =>
    have discovered := execWith_discovery x1 x2 x3 x4 x5 x6 x7 x8 x9 at_dec unattached (granted x2 (by simp))
    have window := execWith_to_window (s := s.discovered x9) x10 x11 ⟨at_dec.1, rfl⟩ (granted x10 (by simp))
      (granted x11 (by simp))
    have banks := execWith_to_two_banks (s := (s.discovered x9).withWindow x11) x12 x13 ⟨at_dec.1, rfl⟩
      (granted x12 (by simp)) (granted x13 (by simp))
    exact ⟨x13, execWith_append_eq discovered (execWith_append_eq window banks)⟩

/-! ## The end of a rollback and of a detach (R149, R150, R154 to R156) -/

/-- The state when bank 1, bank 0, the window and the region have been given back in this order and the command has ended with a
code; `x1` and `x0` are the inputs of the unregistrations, `y` those of the last step. -/
def State.givenBack (s : State) (code : BitVec 4) (x1 x0 y : Inputs) : State :=
  { s with lc := .unattached, lstep := .resp, lrsp := 0b0000#4 ++ code, regionRsvd := false, mapped := false,
           bankEn := { s.bankEn with b0 := false, b1 := false }, inputs := y,
           history := .response .lifecycle (0b0000#4 ++ code) :: .env .releaseRegion none :: .env .unmap none ::
             .env (.unregister 0) (some x0.answer) :: .env (.unregister 1) (some x1.answer) :: s.history }

/-- A rollback from bank 1 and a teardown from bank 1 take the same four steps, each in phases of its own. -/
theorem execWith_giving_back {l1 l0 lw lr : LStep} {code : BitVec 4} (x1 x0 x y : Inputs)
    (phases : (i, l1, l0, lw, lr, code) ∈
      [(.attach, .rbu1, .rbu0, .rbunmap, .rbrrel, s.errk), (.detach, .unreg1, .unreg0, .unmap, .rrel, Status.ok.code)])
    (at_bank1 : LifecycleAt s l1) : execWith i [x1, x0, x, y] s = .next (s.givenBack code x1 x0 y) := by
  have ⟨bank1, bank0, window, region⟩ : (i, l1, 1, l0) ∈ unregisterPhases ∧ (i, l0, 0, lw) ∈ unregisterPhases ∧
      (i, lw, lr) ∈ unmapPhases ∧ (i, lr, code) ∈ releasePhases s.errk := by
    simp only [List.mem_cons, Prod.mk.injEq, List.not_mem_nil, or_false] at phases
    rcases phases with ⟨rfl, rfl, rfl, rfl, rfl, rfl⟩ | ⟨rfl, rfl, rfl, rfl, rfl, rfl⟩ <;>
      simp [unregisterPhases, unmapPhases, releasePhases]
  refine execWith_cons_eq (exec_unregister bank1 at_bank1) ?_
  refine execWith_cons_eq (exec_unregister bank0 ⟨at_bank1.1, rfl⟩) ?_
  refine execWith_cons_eq (exec_unmap window ⟨at_bank1.1, rfl⟩) ?_
  exact execWith_cons_eq (exec_release_region region ⟨at_bank1.1, rfl⟩) rfl

/-- Nothing is held when everything below bank 2 has been given back. -/
theorem holdings_givenBack {code : BitVec 4} {x1 x0 y : Inputs} (ports : s.portsRsvd = false) (bank2 : s.bankEn.b2 = false) :
    (s.givenBack code x1 x0 y).holdings = Holdings.plain false false := by
  simp [holdings_eq_iff, State.givenBack, Holdings.plain, ports, bank2]

end

/-! ## The statements on whole commands -/

/-- Settles O39. -/
theorem attachSucceeds : Obligations.AttachSucceeds := by
  intro s xs at_dec unattached steps granted a d base
  obtain rfl | ⟨xs, z, rfl⟩ := xs.eq_nil_or_concat'
  · cases steps
  obtain ⟨x, ran⟩ := execWith_to_last_bank at_dec unattached (by simpa using steps) fun y hy => granted y (by simp [hy])
  have registered := exec_attach_last_bank_granted (s := { s.beforeLastBank x with inputs := z }) ⟨at_dec.1, rfl⟩
    (granted z (by simp))
  exact ⟨_, execWith_append_eq ran (execWith_cons_eq registered rfl), rfl⟩

/-- Settles O40: what the steps before the failure have acquired is what the rollback gives back. -/
theorem attachRollsBackFailedBankTwo : Obligations.AttachRollsBackFailedBankTwo := by
  intro s xs z w1 w2 w3 w4 k inv at_dec unattached steps granted refused
  obtain ⟨x, ran⟩ := execWith_to_last_bank at_dec unattached steps granted
  have failed := exec_attach_bank_refused (s := { s.beforeLastBank x with inputs := z }) (l := .reg2) (b := 2) (back := .rbu1)
    (by decide) ⟨at_dec.1, rfl⟩ refused
  have rolled_back := execWith_append_eq ran (execWith_cons_eq failed
    (execWith_giving_back w1 w2 w3 w4 (.head _) ⟨at_dec.1, rfl⟩))
  have nothing_held : s.holdings = Holdings.plain false false := by
    rw [inv.holds, at_dec.2, unattached]
    rfl
  obtain ⟨_, _, _, banks⟩ := holdings_eq_iff.mp nothing_held
  have bank2 : s.bankEn.b2 = false := by rw [banks]; rfl
  exact ⟨_, s.laneEvents, rolled_back, rfl, rfl, holdings_givenBack rfl bank2, rfl, rfl, rfl, rfl,
    fun _ => access_of_mem_laneEvents, rfl⟩

/-- Settles O43. -/
theorem detachTearsDownInReverse : Obligations.DetachTearsDownInReverse := by
  intro s x1 x2 x3 x4 x5 x6 x7 at_dec attached quiet
  have admitted : exec .detach { s with inputs := x1 } = .next { s with inputs := x1, lc := .detaching, lstep := .dwait } := by
    rw [exec_detach_of_dec (s := { s with inputs := x1 }) at_dec, if_pos attached]
  have drained : exec .detach { s with inputs := x2, lc := .detaching, lstep := .dwait } =
      .next { s with inputs := x2, lc := .detaching, lstep := .unreg2 } :=
    exec_detach_drained ⟨at_dec.1, rfl⟩ quiet
  refine execWith_cons_eq admitted (execWith_cons_eq drained ?_)
  refine execWith_cons_eq (exec_unregister (l := .unreg2) (b := 2) (go := .unreg1) (by decide) ⟨at_dec.1, rfl⟩) ?_
  exact execWith_giving_back x4 x5 x6 x7 (.tail _ (.head _)) ⟨at_dec.1, rfl⟩

/-! ## What a step on the lifecycle port leaves alone -/

section
variable {s u : State}

theorem AgentStep.lifecycle_frame (h : AgentStep s u) (turn : s.turn = .lifecycle) :
    u.reqs = s.reqs ∧ u.window = s.window ∧ u.lockHeld = s.lockHeld ∧ u.lockOwner = s.lockOwner := by
  cases h with
  | held => exact ⟨rfl, rfl, rfl, rfl⟩
  | lifecycle _ move =>
    obtain ⟨reqs, window, held, owner, -⟩ := move.frame
    exact ⟨reqs, window, held, owner⟩
  | requester turn' | other turn' => rw [turn] at turn'; cases turn'

/-- What discovery has found, and the ports it is made through. -/
def State.discovery (s : State) : Addr × BitVec 24 × Byte × Bool := (s.dba, s.acc, s.idxReg, s.portsRsvd)

/-- No step of `DETACH` undoes discovery (R151 to R156). -/
theorem exec_detach_discovery (turn : s.turn = .lifecycle) (h : exec .detach s = .next u) : u.discovery = s.discovery := by
  rw [exec, execDetach, onLifecycle_of_turn turn] at h
  cases phase : s.lstep <;> simp only [phase] at h
  case dec => cases h; split <;> rfl
  case dwait => cases h; rcases drain_cases s with ⟨-, e⟩ | ⟨-, e⟩ <;> rw [e]; rfl
  case unreg2 | unreg1 | unreg0 | unmap | rrel => cases h; rfl
  all_goals cases h

/-- Neither a word latched on the lifecycle port nor its response taken touches what discovery has found (R140, R158). -/
theorem outsideStep_discovery (turn : s.turn = .lifecycle) : (outsideStep s).discovery = s.discovery := by
  rcases outsideStep_cases s with e | ⟨_, _, _, turn', _⟩ | ⟨_, _, turn', _⟩ | ⟨_, _, _, _, e⟩ | ⟨_, _, e⟩ | ⟨turn', _⟩
  · rw [e]
  · rw [turn] at turn'; cases turn'
  · rw [turn] at turn'; cases turn'
  · rw [e]; rfl
  · rw [e]; rfl
  · rw [turn] at turn'; cases turn'

@[simp] theorem State.draw_discovery (s : State) : s.draw.discovery = s.discovery := by simp [State.discovery]

/-- The word fetched on the lifecycle port's turn is the one it has latched (R23). -/
theorem lcmd_of_fetch {w : Command} (turn : s.turn = .lifecycle) (fetched : fetch s = some w) : s.lcmd = w := by
  rcases fetch_eq_some fetched with ⟨_, _, turn', _⟩ | ⟨_, _, _, cmd⟩
  · rw [turn] at turn'
    cases turn'
  · exact cmd

end

/-- Settles O44. -/
theorem lifecycleCommandFrame : Obligations.LifecycleCommandFrame := by
  intro s t turn h
  have frame : t.reqs = s.reqs ∧ t.window = s.window ∧ t.lockHeld = s.lockHeld ∧ t.lockOwner = s.lockOwner := by
    obtain ⟨u, move, rfl⟩ := step_cases h
    simpa using move.lifecycle_frame turn
  have detach : decode s.lcmd = .ok .detach → t.discovery = s.discovery := by
    intro decodes
    rcases step_eq_next h with ⟨w, i, u, fetched, decoded, ran, rfl⟩ | ⟨w, e, u, fetched, reserved, _, _⟩ | ⟨_, rfl⟩
    · rw [← lcmd_of_fetch turn fetched, decodes] at decoded
      cases decoded
      rw [State.draw_discovery, exec_detach_discovery turn ran]
    · rw [← lcmd_of_fetch turn fetched, decodes] at reserved
      cases reserved
    · rw [State.draw_discovery, outsideStep_discovery turn]
  obtain ⟨reqs, window, held, owner⟩ := frame
  exact ⟨window, reqs, held, owner, fun decodes => by simpa [State.discovery] using detach decodes⟩

end Sys2Proof.Machine

/-!
PROOFS, part 16. The resting states: reset (R185) and quiescence (R191). What they hold is R30 (a) and (b), which the invariant
gives in the lifecycle state they stand in.
-/
namespace Sys2Proof.Machine

/-- There is at least one requester port, whatever number the platform has (R6). -/
theorem one_le_reset_reqs_length : 1 ≤ State.reset.reqs.length :=
  calc
    1 ≤ Config.extraRequesters + 1 := Nat.le_add_left 1 _
    _ = State.reset.reqs.length := List.length_replicate.symm

/-- Settles O45: the state after reset is the one R30 (a) describes. -/
theorem resetHoldsNothing : Obligations.ResetHoldsNothing := by
  have unattached : State.reset.lc = .unattached := rfl
  obtain ⟨ports, region, mapped, banks, free, _⟩ := resetMeetsTheInvariant.specInvariants.a unattached
  exact ⟨unattached, rfl, ports, region, mapped, banks, free, one_le_reset_reqs_length, fun _ _ => reset_reqs_idle⟩

/-- An idle lifecycle sequencer stands in `Unattached` or `Attached`: no command is under way (R12, R23). -/
theorem LStep.lc_of_allows_idle {lc : LcState} (h : LStep.idle.allows lc = true) : lc = .unattached ∨ lc = .attached := by
  revert h; cases lc <;> decide

/-- Settles O59: the ports are released by R30 (a) or (b), and a held lock would have a busy holder (R30 (f)). -/
theorem quiescentStatesAreSettled : Obligations.QuiescentStatesAreSettled := by
  rintro s inv ⟨sequencer_idle, ports_idle⟩
  have lifecycle : s.lc = .unattached ∨ s.lc = .attached :=
    LStep.lc_of_allows_idle (by simpa only [sequencer_idle] using inv.lifecycle)
  have free : s.lockHeld = false := inv.lock_free_of_not_busy fun r q hq => by rw [ports_idle r q hq]; rfl
  have released : s.portsRsvd = false := by
    rcases lifecycle with unattached | attached
    · exact (inv.specInvariants.a unattached).1
    · exact (inv.specInvariants.b attached).1
  exact ⟨lifecycle, free, released⟩

end Sys2Proof.Machine
